-- ==== Sys2Proof/Word.lean ====
section
/-! DEFINITION. The word types of the Rune-512 codec core (00_scope.md R6, R10; 30_encoding.md R67 to R73). -/

namespace Sys2Proof

/-- One byte (R12). -/
abbrev Byte := BitVec 8

/-- One host register, `W = 32` (10_state.md R21). -/
abbrev Word32 := BitVec 32

/-- One symbol value, 0 to 511 (00_scope.md R15). -/
abbrev SymVal := BitVec 9

/-- A register slot number, 0 to 7 (20_memory.md R52). -/
abbrev Slot := BitVec 3

/-- A checksum, `C` bits wide: 16 or 17 (00_scope.md R6), held in 17 bits. -/
abbrev Chk := BitVec 17

/-- A host operation word (30_encoding.md R73). -/
abbrev HostWord := BitVec 40

end Sys2Proof
end

