-- ==== Sys2Proof/Syntax.lean ====
section
/-! DEFINITION. The FIFO items (30_encoding.md R67 to R72) and the host operations, one constructor for each row
of opcode_table.json (R73, R74). -/

namespace Sys2Proof

/-- `BIN` item, 9 bits (R67): `byte` is bits 7:0 and `isEnd` is bit 8. -/
structure BinItem where
  byte  : Byte
  isEnd : Bool
deriving DecidableEq, Repr, Inhabited

/-- `TIN` item, 12 bits (R69): `value` is bits 8:0, `valid` bit 9, `sent` bit 10, `isEnd` bit 11. -/
structure Token where
  value : SymVal
  valid : Bool
  sent  : Bool
  isEnd : Bool
deriving DecidableEq, Repr, Inhabited

/-- `SOUT` item, 10 bits (R71): `value` is bits 8:0 and `sent` is bit 9. -/
structure SymItem where
  value : SymVal
  sent  : Bool
deriving DecidableEq, Repr, Inhabited

/-- The host operations (R73); the six `CMD` rows are the writes to slot 1 (R74). -/
inductive Instr where
  /-- `RD <slot>` (R121). -/
  | rd (slot : Slot)
  /-- `WR <slot>, data` (R122); slot 1 is spelled by the `CMD` rows. -/
  | wr (slot : Slot) (data : Word32)
  /-- `WR CMD, 0` (R105). -/
  | encode
  /-- `WR CMD, 1` (R120). -/
  | decode
  /-- `WR CMD, 2` (R89). -/
  | checksum
  /-- `WR CMD, 3` (R93). -/
  | pack
  /-- `WR CMD, 4` (R99). -/
  | unpack
  /-- `WR CMD, data` where `data` decodes to no command (R74, R77). -/
  | cmdIllegal (data : Word32)
  /-- `PUSHB item` (R123). -/
  | pushb (item : BinItem)
  /-- `PUSHT item` (R124). -/
  | pusht (item : Token)
  /-- `POPS` (R125). -/
  | pops
  /-- `POPB` (R126). -/
  | popb
deriving DecidableEq, Repr

end Sys2Proof
end

