-- ==== Sys2Proof/WellFormed.lean ====
section
/-! DEFINITION. Which terms of `Instr` are host operations of 30_encoding.md R73 and R74. -/

namespace Sys2Proof

/-- The `CMD` values that decode to the illegal command: `OP` 5 to 7, or any of bits 31:3 set (R74, R77 a). -/
def illegalCommandWord (data : Word32) : Bool :=
  5 ≤ (data.extractLsb' 0 3).toNat || data.extractLsb' 3 29 != 0

/-- `WR` applies to slot 1 only through the `CMD` rows (R73), and `CMD.ILLEGAL` carries an illegal command word (R74).
Every other term is a host operation as it stands: its field widths are those of R73. -/
def Instr.wellFormed (i : Instr) : Bool :=
  match i with
  | .rd _ => true
  | .wr slot _ => slot != 1
  | .encode => true
  | .decode => true
  | .checksum => true
  | .pack => true
  | .unpack => true
  | .cmdIllegal data => illegalCommandWord data
  | .pushb _ => true
  | .pusht _ => true
  | .pops => true
  | .popb => true

end Sys2Proof
end

