-- ==== Sys2Proof/Decode.lean ====
section
/-! DEFINITION. Host operation words: decoding (30_encoding.md R73, R74), total, refusing by name; the encoder; and
the opcode table's rows with the rule that picks one (R73). -/

namespace Sys2Proof

/-- Why a word spells no host operation (R73, R77 e, 93 U13). -/
inductive WordError where
  /-- `KIND` is 6 to 15. -/
  | reservedKind
  /-- Bit 35 is set. -/
  | reservedBit
  /-- `SLOT` is not zero outside `RD` and `WR`. -/
  | slotNotZero
  /-- A bit outside the used `DATA` bits is set. -/
  | dataNotZero
deriving DecidableEq, Repr

/-- `KIND`, bits 39:36 (R73). -/
def hostKind (w : HostWord) : BitVec 4 := w.extractLsb' 36 4

/-- The reserved bit 35 (R73). -/
def hostReserved (w : HostWord) : Bool := w.getLsbD 35

/-- `SLOT`, bits 34:32 (R73). -/
def hostSlot (w : HostWord) : Slot := w.extractLsb' 32 3

/-- `DATA`, bits 31:0 (R73). -/
def hostData (w : HostWord) : Word32 := w.extractLsb' 0 32

/-- A `BIN` item from bits 8:0 of `DATA` (R67, R73). -/
def BinItem.ofData (d : Word32) : BinItem :=
  { byte := d.extractLsb' 0 8, isEnd := d.getLsbD 8 }

/-- A `TIN` item from bits 11:0 of `DATA` (R69, R73). -/
def Token.ofData (d : Word32) : Token :=
  { value := d.extractLsb' 0 9, valid := d.getLsbD 9, sent := d.getLsbD 10, isEnd := d.getLsbD 11 }

/-- The `CMD` row of a command word (R74): `OP` is bits 2:0 and bits 31:3 must be 0; all else is `CMD.ILLEGAL`. -/
def decodeCommand (d : Word32) : Instr :=
  if d.extractLsb' 3 29 = 0 then
    match (d.extractLsb' 0 3).toNat with
    | 0 => .encode
    | 1 => .decode
    | 2 => .checksum
    | 3 => .pack
    | 4 => .unpack
    | _ => .cmdIllegal d
  else .cmdIllegal d

/-- The checks on the fields that an operation outside `RD` and `WR` leaves unused (R73). -/
def checkUnused (w : HostWord) (unused : Bool) (i : Instr) : Except WordError Instr :=
  if hostSlot w ≠ 0 then .error .slotNotZero
  else if unused then .error .dataNotZero
  else .ok i

/-- The host operation a word spells (R73), or why it spells none. -/
def decode (w : HostWord) : Except WordError Instr :=
  if hostReserved w then .error .reservedBit
  else
    match (hostKind w).toNat with
    | 0 => if hostData w ≠ 0 then .error .dataNotZero else .ok (.rd (hostSlot w))
    | 1 => if hostSlot w = 1 then .ok (decodeCommand (hostData w)) else .ok (.wr (hostSlot w) (hostData w))
    | 2 => checkUnused w ((hostData w).extractLsb' 9 23 != 0) (.pushb (BinItem.ofData (hostData w)))
    | 3 => checkUnused w ((hostData w).extractLsb' 12 20 != 0) (.pusht (Token.ofData (hostData w)))
    | 4 => checkUnused w (hostData w != 0) .pops
    | 5 => checkUnused w (hostData w != 0) .popb
    | _ => .error .reservedKind

/-- The instruction whose 40 bits are `w` (bits above `nbits` are 0); a number that does not fit 40 bits is no host
operation word. -/
def decodeTableWord (nbits w : Nat) : Option Instr :=
  if w % 2 ^ nbits < 2 ^ 40 then (decode (BitVec.ofNat 40 (w % 2 ^ nbits))).toOption else none

/-! The encoder. -/

/-- A host operation word from its fields: `KIND`, bit 35 zero, `SLOT`, `DATA` (R73). -/
def hostWord (kind : BitVec 4) (slot : Slot) (data : Word32) : HostWord :=
  kind ++ 0#1 ++ slot ++ data

/-- `DATA` of a `PUSHB` (R67, R73). -/
def BinItem.toData (x : BinItem) : Word32 :=
  0#23 ++ BitVec.ofBool x.isEnd ++ x.byte

/-- `DATA` of a `PUSHT` (R69, R73). -/
def Token.toData (t : Token) : Word32 :=
  0#20 ++ BitVec.ofBool t.isEnd ++ BitVec.ofBool t.sent ++ BitVec.ofBool t.valid ++ t.value

/-- A `SOUT` item as its 10 bits (R71). -/
def SymItem.toBits (x : SymItem) : BitVec 10 :=
  BitVec.ofBool x.sent ++ x.value

/-- The word of a host operation (R73, R74). -/
def encode (i : Instr) : HostWord :=
  match i with
  | .rd slot => hostWord 0 slot 0
  | .wr slot data => hostWord 1 slot data
  | .encode => hostWord 1 1 0
  | .decode => hostWord 1 1 1
  | .checksum => hostWord 1 1 2
  | .pack => hostWord 1 1 3
  | .unpack => hostWord 1 1 4
  | .cmdIllegal data => hostWord 1 1 data
  | .pushb item => hostWord 2 0 item.toData
  | .pusht item => hostWord 3 0 item.toData
  | .pops => hostWord 4 0 0
  | .popb => hostWord 5 0 0

/-! The opcode table. -/

/-- A row of opcode_table.json: `matchBits` and `mask` are numbers over the 40-bit word, bit 0 least significant. -/
structure OpcodeRow where
  mnemonic  : String
  matchBits : Nat
  mask      : Nat
deriving DecidableEq, Repr

/-- The twelve rows of opcode_table.json, in its order. -/
def opcodeRows : List OpcodeRow :=
  [ ⟨"RD", 0x0000000000, 0xF8FFFFFFFF⟩,
    ⟨"WR", 0x1000000000, 0xF800000000⟩,
    ⟨"ENCODE", 0x1100000000, 0xFFFFFFFFFF⟩,
    ⟨"DECODE", 0x1100000001, 0xFFFFFFFFFF⟩,
    ⟨"CHECKSUM", 0x1100000002, 0xFFFFFFFFFF⟩,
    ⟨"PACK", 0x1100000003, 0xFFFFFFFFFF⟩,
    ⟨"UNPACK", 0x1100000004, 0xFFFFFFFFFF⟩,
    ⟨"CMD.ILLEGAL", 0x1100000000, 0xFF00000000⟩,
    ⟨"PUSHB", 0x2000000000, 0xFFFFFFFE00⟩,
    ⟨"PUSHT", 0x3000000000, 0xFFFFFFF000⟩,
    ⟨"POPS", 0x4000000000, 0xFFFFFFFFFF⟩,
    ⟨"POPB", 0x5000000000, 0xFFFFFFFFFF⟩ ]

/-- A word matches a row when its bits under the row's mask are the row's. -/
def OpcodeRow.hits (r : OpcodeRow) (w : HostWord) : Bool :=
  w.toNat &&& r.mask == r.matchBits

/-- How many bits the row's mask has set. -/
def OpcodeRow.maskBits (r : OpcodeRow) : Nat :=
  (List.range 40).countP fun i => r.mask.testBit i

/-- "The matching row with the most mask bits set applies" (R73). -/
def matchingRow (w : HostWord) : Option OpcodeRow :=
  (opcodeRows.filter fun r => r.hits w).foldl
    (fun best r =>
      match best with
      | none => some r
      | some b => if b.maskBits < r.maskBits then some r else some b)
    none

/-- The mnemonic of an instruction's row in opcode_table.json. -/
def Instr.mnemonic (i : Instr) : String :=
  match i with
  | .rd _ => "RD"
  | .wr _ _ => "WR"
  | .encode => "ENCODE"
  | .decode => "DECODE"
  | .checksum => "CHECKSUM"
  | .pack => "PACK"
  | .unpack => "UNPACK"
  | .cmdIllegal _ => "CMD.ILLEGAL"
  | .pushb _ => "PUSHB"
  | .pusht _ => "PUSHT"
  | .pops => "POPS"
  | .popb => "POPB"

end Sys2Proof
end

