-- ==== Sys2Proof/Machine/State.lean ====
section
/-! DEFINITION. The state of one Rune-512 codec core instance (10_state.md R17, R19, R35, R38, R41) with the pending
inputs of the other agents, as plain data; what a step can end in besides a next state. -/

namespace Sys2Proof.Machine

/-- The command sequencer's four values (R23). -/
inductive Fsm where
  | idle
  | collect
  | compute
  | commit
deriving DecidableEq, Repr, Inhabited

/-- A decoded command (R74, R127). -/
inductive Cmd where
  | encode
  | decode
  | checksum
  | pack
  | unpack
  | illegal
deriving DecidableEq, Repr, Inhabited

/-- The error kinds of 60_exceptions.md R134, `none` for success. -/
inductive ErrKind where
  | none
  | emptyString
  | invalidPrefix
  | shortPacket
  | invalidPadding
  | checksumMismatch
  | illegalCommand
  | badOperand
  | capacity
deriving DecidableEq, Repr, Inhabited

/-- The fields of `STATUS` (R31); bit 3 and bits 31:9 are reserved, read 0 and are not stored. -/
structure Status where
  /-- Bit 0. -/
  busy     : Bool
  /-- Bit 1. -/
  done     : Bool
  /-- Bit 2. -/
  ovr      : Bool
  /-- Bits 7:4. -/
  err      : BitVec 4
  /-- Bit 8. -/
  shortsub : Bool
deriving DecidableEq, Repr, Inhabited

/-- The output items of a command: none, `SOUT` items or `BOUT` bytes (R76). -/
inductive OutItems where
  | none
  | syms (items : List SymItem)
  | bytes (items : List Byte)
deriving DecidableEq, Repr, Inhabited

/-- `OUTV`, the tuple a command will commit (45_host_interface.md R127); `items` is `OUTQ` (R19). -/
structure OutV where
  err      : ErrKind
  shortsub : Bool
  result   : Word32
  consumed : Word32
  outlen   : Word32
  items    : OutItems
deriving DecidableEq, Repr, Inhabited

/-- The working registers (R19, R95, R128). -/
structure Work where
  /-- `INB`, the collected input bytes, at most `P`. -/
  inb      : List Byte
  /-- Bytes beyond the `P`-th, "only counted as overflow" (R128). -/
  byteOver : Nat
  /-- `ACC`, at most `9*S` bits. -/
  acc      : Nat
  /-- `NBITS`. -/
  nbits    : Nat
  /-- `NSYM`. -/
  nsym     : Nat
  /-- The unpacker has met its first absent token (R95). -/
  stopped  : Bool
  /-- The first token, "kept for the empty and prefix checks" (R128); none while no token has been popped. -/
  firstTok : Option Token
  /-- Valid tokens beyond the `S`-th, "only counted as overflow" (R128). -/
  symOver  : Nat
  /-- `CHK`; under the fast variant bit 16 is 0. -/
  chk      : Chk
  /-- `CHK` holds the running command's checksum (log 10). -/
  chkDone  : Bool
  /-- `OUTV` with `OUTQ`. -/
  outv     : OutV
deriving DecidableEq, Repr, Inhabited

/-- What a host operation returned: a register (R121), a `SOUT` item (R125) or a byte (R126). -/
inductive Reply where
  | nothing
  | reg (value : Word32)
  | sym (item : SymItem)
  | byte (value : Byte)
deriving DecidableEq, Repr, Inhabited

/-- Who moves at a step (R16, R55): the host, the core, the digest provider answering the outstanding request or
delivering an answer that a reset made late (R35), the platform's reset (R148), or nobody visibly (R160). -/
inductive Turn where
  | host
  | core
  | digest
  | lateDigest
  | reset
  | quiet
deriving DecidableEq, Repr, Inhabited

/-- One core instance with the pending inputs of its environment. Fields up to `work` are the spec's; the rest are the
model's own (logs 1, 2, 4, 9). -/
structure State where
  /-- `CFG`, slot 0 (R24). -/
  cfg      : Word32
  /-- `ARG`, slot 2 (R30). -/
  arg      : Word32
  /-- `STATUS`, slot 3 (R31). -/
  status   : Status
  /-- `RESULT`, slot 4 (R32). -/
  result   : Word32
  /-- `CONSUMED`, slot 5 (R33). -/
  consumed : Word32
  /-- `OUTLEN`, slot 6 (R34). -/
  outlen   : Word32
  /-- `BIN`, head first (R37, R67). -/
  bin      : List BinItem
  /-- `TIN`, head first (R37, R69). -/
  tin      : List Token
  /-- `SOUT`, head first (R37, R71). -/
  sout     : List SymItem
  /-- `BOUT`, head first (R37, R72). -/
  bout     : List Byte
  /-- The sequencer (R23). -/
  fsm      : Fsm
  /-- The latched command (R38). -/
  lop      : Cmd
  /-- The latched `CFG` (R38). -/
  lcfg     : Word32
  /-- The latched `ARG` (R38). -/
  larg     : Word32
  /-- `DPEND` (R35). -/
  dpend    : Bool
  /-- The working registers (R19). -/
  work     : Work
  /-- The bytes of the outstanding digest request (log 9). -/
  dreq     : List Byte
  /-- Requests cleared by a reset whose answers are still to arrive (log 9). -/
  late     : List (List Byte)
  /-- Host operation words not yet performed, in program order (log 2). -/
  hostq    : List HostWord
  /-- What the last `RD`, `POPS` or `POPB` returned (log 4). -/
  reply    : Reply
  /-- Who moves at the coming steps (log 1). -/
  sched    : List Turn
  /-- Counts steps; the argument of the free values (log 1). -/
  tick     : Nat
deriving DecidableEq, Repr

/-- Nothing in the spec stops the machine with a fault: "The block has no traps and no exceptions in the processor
sense" (R133), so no meaning and no step raises one, and the type has no constructor. -/
inductive Fault where
deriving DecidableEq, Repr

/-- Why a step has no meaning. -/
inductive Refusal where
  /-- Raised by `exec` for an instruction without a meaning; safe. No arm of this model raises it. -/
  | notModelled (mnemonic : String)
  /-- Raised by the host's turn on a word that spells no host operation: "a model refuses it" (R73, R77 e, U13);
  safe: the spec puts such words outside the block's domain. -/
  | badHostWord (why : WordError)
deriving DecidableEq, Repr

/-- An `OUTV` of zeros and no items. -/
def OutV.zero : OutV :=
  { err := .none, shortsub := false, result := 0, consumed := 0, outlen := 0, items := .none }

/-- The cleared working registers (R95, R127). -/
def Work.cleared : Work :=
  { inb := [], byteOver := 0, acc := 0, nbits := 0, nsym := 0, stopped := false, firstTok := none,
    symOver := 0, chk := 0, chkDone := false, outv := OutV.zero }

/-- The machine right after reset (R41, R148). R41 leaves `LOP`, `LCFG`, `LARG` and the working registers
unspecified; their values here are DESIGN CHOICE (log 7), as are those of the model's own fields (logs 1, 2, 4, 9). -/
def State.reset : State :=
  { cfg := 0, arg := 0,
    status := { busy := false, done := false, ovr := false, err := 0, shortsub := false },
    result := 0, consumed := 0, outlen := 0,
    bin := [], tin := [], sout := [], bout := [],
    fsm := .idle, lop := .encode, lcfg := 0, larg := 0, dpend := false, work := Work.cleared,
    dreq := [], late := [], hostq := [], reply := .nothing, sched := [], tick := 0 }

end Sys2Proof.Machine
end

