-- ==== Sys2Proof/Config.lean ====
section
/-! DEFINITION. The parameters of 00_scope.md R6 and the free values. The opaque constants have no body: nothing can be
proved of a value of theirs, so a claim holds whatever they are. Each parameter ranges over exactly the values R6
allows, by the way it is built from an opaque number (log 5). -/

namespace Sys2Proof.Config

/-- Decides `S` (log 5). -/
opaque freeS : Nat
/-- Decides `P` (log 5). -/
opaque freeP : Nat
/-- Decides `CAP_BIN` (log 5). -/
opaque freeBin : Nat
/-- Decides `CAP_TIN` (log 5). -/
opaque freeTin : Nat
/-- Decides `CAP_SOUT` (log 5). -/
opaque freeSout : Nat
/-- Decides `CAP_BOUT` (log 5). -/
opaque freeBout : Nat

/-- `S`, `MAX_SYMBOLS`: any number from 231, the least that `P >= 257` leaves, to `2^28 - 1` (R6). -/
def maxSymbols : Nat := freeS % (2 ^ 28 - 231) + 231

/-- `P`, `MAX_PAYLOAD_BYTES`: any number with `257 <= P` and `ceil((18 + 8*P) / 9) <= S` (R6). -/
def maxPayload : Nat := freeP % ((9 * maxSymbols - 18) / 8 - 256) + 257

/-- `CAP_BIN >= 1` (R6). -/
def capBin : Nat := freeBin + 1

/-- `CAP_TIN >= 1` (R6). -/
def capTin : Nat := freeTin + 1

/-- `CAP_SOUT >= S + 1` (R6). -/
def capSout : Nat := freeSout + (maxSymbols + 1)

/-- `CAP_BOUT >= max(floor((9*S - 17) / 8), ceil(9*S / 8))` (R6); `ceil(9*S / 8)` is `ceil(S / 8) + S`, and it is the
larger of the two. -/
def capBout : Nat := freeBout + ((maxSymbols + 7) / 8 + maxSymbols)

/-- `DIGEST`, the 256-bit digest function of the strong variant: bytes to 32 bytes (R6, R83; log 6). -/
opaque digest : List Byte → Vector Byte 32

/-- `BASE`, where the slot space sits in a larger system's address map (20_memory.md R53); no rule reads it (log 15). -/
opaque base : Nat

/-- Who moves at a step that `sched` does not decide, unless the core's turn is due there (R55, R160; logs 1, 16). -/
opaque freeTurn : Nat → Machine.Turn

/-- After how many turns the core's turn is due, counted from a step at which the core's turn has just been (R160, weak
fairness; log 16). -/
opaque freeGap : Nat → Nat

/-- The working registers a command leaves behind: "Their values between commands are unspecified" (R19; log 8). -/
opaque freeWork : Nat → Machine.Work

end Sys2Proof.Config
end

