-- ==== Sys2Proof/Machine/Operands.lean ====
section
/-! DEFINITION. Operand forms: big-endian byte strings (00_scope.md R12), the fields of `CFG` (10_state.md R24), the
FIFOs of a command (30_encoding.md R76), and what the token sequences of R94 and R106 are asked. -/

namespace Sys2Proof.Machine

/-- `int_be(p)`, byte 0 most significant (R12). -/
def intBe (p : List Byte) : Nat :=
  p.foldl (fun acc b => acc * 256 + b.toNat) 0

/-- `be_bytes(v, k)`, the `k` bytes whose `int_be` is `v` (R12). -/
def beBytes (v k : Nat) : List Byte :=
  (List.range k).map fun i => BitVec.ofNat 8 (v >>> (8 * (k - 1 - i)))

/-- `CFG.CSEL`, bit 0 (R24, R25). -/
def csel (cfg : Word32) : Bool := cfg.getLsbD 0

/-- `CFG.PFX`, bit 1 (R24, R26). -/
def pfx (cfg : Word32) : Bool := cfg.getLsbD 1

/-- `CFG.EMPTYOK`, bit 2 (R24, R27). -/
def emptyOk (cfg : Word32) : Bool := cfg.getLsbD 2

/-- `C = 16 + LCFG.CSEL` (R25). -/
def chkWidth (cfg : Word32) : Nat := if csel cfg then 17 else 16

/-- What a write stores in `CFG`: bits 2:0; the reserved bits 31:3 are ignored (R28, R122). -/
def cfgStored (v : Word32) : Word32 := (v.extractLsb' 0 3).setWidth 32

/-- Which input FIFO a command pops (R76). -/
inductive InPort where
  | bin
  | tin
  | none
deriving DecidableEq, Repr

/-- The input FIFO of a command (R76). -/
def Cmd.inPort (c : Cmd) : InPort :=
  match c with
  | .encode => .bin
  | .decode => .tin
  | .checksum => .bin
  | .pack => .bin
  | .unpack => .tin
  | .illegal => .none

/-- `decode_cmd(v)` (R74, R127): `OP` is bits 2:0, bits 31:3 must be 0. -/
def Cmd.ofWord (v : Word32) : Cmd :=
  if v.extractLsb' 3 29 = 0 then
    match (v.extractLsb' 0 3).toNat with
    | 0 => .encode
    | 1 => .decode
    | 2 => .checksum
    | 3 => .pack
    | 4 => .unpack
    | _ => .illegal
  else .illegal

/-- "the first `n` tokens of `toks` all have VALID = 1" (R99, R106): there are `n` of them, each valid. -/
def firstAllValid (n : Nat) (toks : List Token) : Bool :=
  n ≤ (toks.takeWhile fun t => t.valid).length

end Sys2Proof.Machine
end

