-- ==== Sys2Proof/Machine/Flags.lean ====
section
/-! DEFINITION. The flags: the bits of `STATUS` (10_state.md R31, R40), the error codes (60_exceptions.md R134), and the
three writes the sequencer makes to `STATUS`. -/

namespace Sys2Proof.Machine

/-- The code of an error kind (R134); codes 9 to 15 are reserved and never written. -/
def ErrKind.code (e : ErrKind) : BitVec 4 :=
  match e with
  | .none => 0
  | .emptyString => 1
  | .invalidPrefix => 2
  | .shortPacket => 3
  | .invalidPadding => 4
  | .checksumMismatch => 5
  | .illegalCommand => 6
  | .badOperand => 7
  | .capacity => 8

/-- The 32 bits of `STATUS` (R31): reserved bits 31:9 and 3 read 0. -/
def Status.word (f : Status) : Word32 :=
  0#23 ++ BitVec.ofBool f.shortsub ++ f.err ++ 0#1 ++ BitVec.ofBool f.ovr ++ BitVec.ofBool f.done
    ++ BitVec.ofBool f.busy

/-- An accepted `CMD` write: `DONE <- 0`, `BUSY <- 1`, `OVR <- 0` (R29, R127). -/
def Status.accepted (f : Status) : Status :=
  { f with done := false, busy := true, ovr := false }

/-- A dropped `CMD` write: "nothing else changes except `STATUS.OVR <- 1`" (R29). -/
def Status.dropped (f : Status) : Status :=
  { f with ovr := true }

/-- A commit: `ERR` and `SHORTSUB` from `OUTV`, `DONE <- 1`, `BUSY <- 0` (R130). -/
def Status.committed (f : Status) (o : OutV) : Status :=
  { f with err := o.err.code, shortsub := o.shortsub, done := true, busy := false }

end Sys2Proof.Machine
end

