-- ==== Sys2Proof/Machine/Ops.lean ====
section
/-! DEFINITION. The named operations the meanings and the agents' steps share: register access (45_host_interface.md R121,
R122), starting a command (R127), the FIFOs (R123 to R126), ending a command with an error (60_exceptions.md R137) and the
commit (R130). -/

namespace Sys2Proof.Machine

/-! Ending a command. -/

/-- `raise E`: the one way a command fails (R137). Every output is discarded; `RESULT`, `CONSUMED` and `OUTLEN` are 0 (R134). -/
def OutV.fail (e : ErrKind) (sub : Bool) : OutV :=
  { err := e, shortsub := sub, result := 0, consumed := 0, outlen := 0, items := .none }

/-- A command that succeeds: `ERR` 0 and `SHORTSUB` 0 (R31, R134). -/
def OutV.success (result consumed outlen : Nat) (items : OutItems) : OutV :=
  { err := .none, shortsub := false, result := BitVec.ofNat 32 result, consumed := BitVec.ofNat 32 consumed,
    outlen := BitVec.ofNat 32 outlen, items := items }

/-- The output FIFO has room for all the items; always, for a command with no output (R130). -/
def State.hasRoom (s : State) (items : OutItems) : Bool :=
  match items with
  | .none => true
  | .syms l => s.sout.length + l.length ≤ Config.capSout
  | .bytes l => s.bout.length + l.length ≤ Config.capBout

/-- The items appended to `SOUT`. -/
def OutItems.toSout (items : OutItems) : List SymItem :=
  match items with
  | .none => []
  | .syms l => l
  | .bytes _ => []

/-- The items appended to `BOUT`. -/
def OutItems.toBout (items : OutItems) : List Byte :=
  match items with
  | .none => []
  | .syms _ => []
  | .bytes l => l

/-- The values left in the working registers between commands: any values within the bounds of R19 (log 8). -/
def Work.leftOver (n : Nat) : Work :=
  let w := Config.freeWork n
  { w with
    inb := w.inb.take Config.maxPayload
    nsym := min w.nsym Config.maxSymbols
    nbits := min w.nbits (9 * Config.maxSymbols)
    acc := w.acc % 2 ^ (9 * Config.maxSymbols) }

/-- The `COMMIT` step (R130), atomic: the items are appended, `RESULT`, `CONSUMED`, `OUTLEN` and `STATUS` are written
and the sequencer returns to `IDLE`. While the output FIFO lacks room the core has no step. -/
def State.commit (s : State) : State :=
  let o := s.work.outv
  if s.hasRoom o.items then
    { s with
      sout := s.sout ++ o.items.toSout
      bout := s.bout ++ o.items.toBout
      status := s.status.committed o
      result := o.result
      consumed := o.consumed
      outlen := o.outlen
      fsm := .idle
      work := Work.leftOver s.tick }
  else s

/-! Registers. -/

/-- The value of a register slot (R52, R121). -/
def State.readReg (s : State) (slot : Slot) : Word32 :=
  match slot.toNat with
  | 0 => s.cfg
  | 1 => 0
  | 2 => s.arg
  | 3 => s.status.word
  | 4 => s.result
  | 5 => s.consumed
  | 6 => s.outlen
  | _ => 0

/-- `START` (R127): the context is latched (R38), `STATUS` accepts, and the illegal command goes straight to `COMMIT`
with error 6, every other to `COLLECT` with the working registers cleared. -/
def State.start (s : State) (c : Cmd) : State :=
  let s' := { s with lop := c, lcfg := s.cfg, larg := s.arg, status := s.status.accepted }
  if c = .illegal then
    { s' with work := { s.work with outv := OutV.fail .illegalCommand false }, fsm := .commit }
  else { s' with work := Work.cleared, fsm := .collect }

/-- A write to `CMD` that decodes to `c` (R29, R122): accepted in `IDLE`, dropped otherwise. -/
def State.cmdWrite (s : State) (c : Cmd) : State :=
  if s.fsm = .idle then s.start c else { s with status := s.status.dropped }

/-- `WR(slot, v)` (R122). -/
def State.writeReg (s : State) (slot : Slot) (v : Word32) : State :=
  match slot.toNat with
  | 0 => { s with cfg := cfgStored v }
  | 1 => s.cmdWrite (Cmd.ofWord v)
  | 2 => { s with arg := v }
  | _ => s

/-! The host's side. -/

/-- The host operation has taken effect: the host goes on to its next one (R55, program order). -/
def State.retire (s : State) : State :=
  { s with hostq := s.hostq.tail }

/-- The host operation returns a value (R121, R125, R126). -/
def State.answer (s : State) (r : Reply) : State :=
  { s with reply := r }

/-- `Push(BIN, x)`: enabled while `BIN` holds fewer than `CAP_BIN` items (R123). -/
def State.pushBin (s : State) (x : BinItem) : Option State :=
  if s.bin.length < Config.capBin then some { s with bin := s.bin ++ [x] } else none

/-- `Push(TIN, x)`: enabled while `TIN` holds fewer than `CAP_TIN` items (R124). -/
def State.pushTin (s : State) (x : Token) : Option State :=
  if s.tin.length < Config.capTin then some { s with tin := s.tin ++ [x] } else none

/-- `Pop(SOUT)`: enabled while `SOUT` is not empty (R125). -/
def State.popSout (s : State) : Option (SymItem × State) :=
  match s.sout with
  | [] => none
  | x :: rest => some (x, { s with sout := rest })

/-- `Pop(BOUT)`: enabled while `BOUT` is not empty (R126). -/
def State.popBout (s : State) : Option (Byte × State) :=
  match s.bout with
  | [] => none
  | x :: rest => some (x, { s with bout := rest })

/-- A push that is enabled takes effect and retires; one that is not has no step, and the host waits (R37). -/
def State.pushOrWait (s : State) (pushed : Option State) : State :=
  match pushed with
  | some s' => s'.retire
  | none => s

end Sys2Proof.Machine
end

