-- ==== Sys2Proof/Machine/Illegal.lean ====
section
/-! DEFINITION. The illegal command (30_encoding.md R74, R77; 45_host_interface.md R127; 60_exceptions.md R134). -/

namespace Sys2Proof.Machine

/-- `WR CMD, data` where `data` decodes to no command (R77 a): accepted in `IDLE` as a command that completes with
`ERR = 6` and consumes no FIFO item; dropped otherwise. -/
def execCmdIllegal (data : Word32) (s : State) : Host.Outcome State Fault Refusal :=
  .next (s.cmdWrite (Cmd.ofWord data)).retire

end Sys2Proof.Machine
end

