-- ==== Sys2Proof/Machine/Checksum.lean ====
section
/-! DEFINITION. The checksum generator and the `CHECKSUM` command (40_checksum.md R82 to R89). -/

namespace Sys2Proof.Machine

/-- One of the eight shifts of R82's inner loop. -/
def crcShift (c : BitVec 16) : BitVec 16 :=
  if c.getLsbD 15 then (c <<< 1) ^^^ 0x1021 else c <<< 1

/-- `n` shifts. -/
def crcShifts (n : Nat) (c : BitVec 16) : BitVec 16 :=
  match n with
  | 0 => c
  | n + 1 => crcShifts n (crcShift c)

/-- One byte of R82's outer loop: `c ^ (p[i] << 8)`, then eight shifts. -/
def crcByte (c : BitVec 16) (b : Byte) : BitVec 16 :=
  crcShifts 8 (c ^^^ (b.setWidth 16 <<< 8))

/-- `crc16(p)`, CRC-16/XMODEM (R82). -/
def crc16 (p : List Byte) : BitVec 16 :=
  p.foldl crcByte 0

/-- `trunc17(d)`, the low 17 bits of the digest read as one big-endian integer (R84). -/
def trunc17 (d : Vector Byte 32) : Chk :=
  BitVec.ofNat 17 (intBe d.toList)

/-- `checksum_C(p)` (R85): the strong variant has `C = 17`, the fast one `C = 16`. -/
def checksum (strong : Bool) (p : List Byte) : Chk :=
  if strong then trunc17 (Config.digest p) else (crc16 p).setWidth 17

/-- `CHECKSUM_CMD` (R89) with the capacity check decided and the checksum at hand. -/
def checksumOut (tooMany : Bool) (chk : Chk) : OutV :=
  if tooMany then OutV.fail .capacity false else OutV.success chk.toNat 0 0 .none

/-- `CHECKSUM_CMD(p, LCFG)` (R89). -/
def checksumCmd (lcfg : Word32) (p : List Byte) : OutV :=
  checksumOut (Config.maxPayload < p.length) (checksum (csel lcfg) p)

/-- `WR CMD, 2` (R89, R122, R127). -/
def execChecksum (s : State) : Host.Outcome State Fault Refusal :=
  .next (s.cmdWrite .checksum).retire

end Sys2Proof.Machine
end

