-- ==== Sys2Proof/Machine/Packer.lean ====
section
/-! DEFINITION. The Bit Packer and the `PACK` command (41_bitpacker.md R90 to R93). -/

namespace Sys2Proof.Machine

/-- `pack(v, L)`: `L/9` symbol values, most significant 9-bit group first (R90). -/
def pack (v L : Nat) : List SymVal :=
  (List.range (L / 9)).map fun i => BitVec.ofNat 9 (v >>> (L - 9 * (i + 1)))

/-- A symbol value as a `SOUT` item with `SENT = 0` (R71, R90). -/
def symItem (v : SymVal) : SymItem := { value := v, sent := false }

/-- `PACK_CMD` (R93) with the input capacity check decided; the checks are made in the order written there. The value
fits in `L` bits exactly when nothing is left of it after a shift by `L` (`v >= 2^L` otherwise). -/
def packOut (tooMany : Bool) (q : List Byte) (L : Nat) : OutV :=
  if tooMany then OutV.fail .capacity false
  else if L % 9 ≠ 0 then OutV.fail .badOperand false
  else if intBe q >>> L ≠ 0 then OutV.fail .badOperand false
  else if Config.maxSymbols < L / 9 then OutV.fail .capacity false
  else OutV.success 0 0 (L / 9) (.syms ((pack (intBe q) L).map symItem))

/-- `PACK_CMD(q, L)` (R93). -/
def packCmd (larg : Word32) (q : List Byte) : OutV :=
  packOut (Config.maxPayload < q.length) q larg.toNat

/-- `WR CMD, 3` (R93, R122, R127). -/
def execPack (s : State) : Host.Outcome State Fault Refusal :=
  .next (s.cmdWrite .pack).retire

end Sys2Proof.Machine
end

