-- ==== Sys2Proof/Machine/Encoder.lean ====
section
/-! DEFINITION. The Packet Codec's encode and the `ENCODE` command (43_codec_encode.md R100 to R105; the packet format is
30_encoding.md R61). -/

namespace Sys2Proof.Machine

/-- `C`: 17 under the strong variant, 16 under the fast one (R6). -/
def codecWidth (strong : Bool) : Nat := if strong then 17 else 16

/-- `totalBits = 1 + C + 8*len(p)` (R100 step 2). -/
def totalBits (strong : Bool) (p : List Byte) : Nat := 1 + codecWidth strong + 8 * p.length

/-- `padding`, the zero bits up to a 9-bit boundary, 0 to 8 (R100 step 3). -/
def padding (strong : Bool) (p : List Byte) : Nat := (9 - totalBits strong p % 9) % 9

/-- `parityBit` (R100 step 4). -/
def parityBit (strong : Bool) (p : List Byte) : Nat := if padding strong p = 8 then 1 else 0

/-- `header = (parityBit << C) | checksum` (R100 step 5). -/
def header (strong : Bool) (chk : Chk) (p : List Byte) : Nat :=
  (parityBit strong p <<< codecWidth strong) ||| chk.toNat

/-- The packet's bits as a number (R61, R100 step 6). -/
def packetBits (strong : Bool) (chk : Chk) (p : List Byte) : Nat :=
  ((header strong chk p <<< (8 * p.length)) ||| intBe p) <<< padding strong p

/-- The sentinel item, `SENT = 1` and `VALUE = 0` (R71). -/
def sentinelItem : SymItem := { value := 0, sent := true }

/-- R100 with the checksum at hand: the packed symbols, after the sentinel when the prefix is on (step 7). -/
def packetWith (strong pfxOn : Bool) (chk : Chk) (p : List Byte) : List SymItem :=
  (if pfxOn then [sentinelItem] else []) ++
    (pack (packetBits strong chk p) (totalBits strong p + padding strong p)).map symItem

/-- `encode(p, C, PFX)` (R100). -/
def packetEncode (strong pfxOn : Bool) (p : List Byte) : List SymItem :=
  packetWith strong pfxOn (checksum strong p) p

/-- `ENCODE_CMD` (R105) with the capacity check decided and the checksum at hand. -/
def encodeOut (tooMany : Bool) (lcfg : Word32) (chk : Chk) (p : List Byte) : OutV :=
  if tooMany then OutV.fail .capacity false
  else
    let out := packetWith (csel lcfg) (pfx lcfg) chk p
    OutV.success chk.toNat 0 out.length (.syms out)

/-- `ENCODE_CMD(p, LCFG)` (R105). -/
def encodeCmd (lcfg : Word32) (p : List Byte) : OutV :=
  encodeOut (Config.maxPayload < p.length) lcfg (checksum (csel lcfg) p) p

/-- `WR CMD, 0` (R105, R122, R127). -/
def execEncode (s : State) : Host.Outcome State Fault Refusal :=
  .next (s.cmdWrite .encode).retire

end Sys2Proof.Machine
end

