-- ==== Sys2Proof/Machine/Unpacker.lean ====
section
/-! DEFINITION. The Bit Unpacker and the `UNPACK` command (42_bitunpacker.md R94 to R99). -/

namespace Sys2Proof.Machine

/-- The unpacker's result `(acc, nbits, nsym)` (R94). -/
structure Unpacked where
  acc   : Nat
  nbits : Nat
  nsym  : Nat
deriving DecidableEq, Repr

/-- One valid token: the accumulator shifts left by 9 and takes the value in; the counters go up by 9 and 1 (R94). -/
def Unpacked.push (u : Unpacked) (v : SymVal) : Unpacked :=
  { acc := (u.acc <<< 9) ||| v.toNat, nbits := u.nbits + 9, nsym := u.nsym + 1 }

/-- The loop of R94: "on the first absent lookup, stop without error". -/
def unpackFrom (u : Unpacked) (toks : List Token) : Unpacked :=
  match toks with
  | [] => u
  | t :: rest => if t.valid then unpackFrom (u.push t.value) rest else u

/-- `unpack(toks)` (R94); `SENT` plays no part (R96). -/
def unpack (toks : List Token) : Unpacked :=
  unpackFrom { acc := 0, nbits := 0, nsym := 0 } toks

/-- The unpacker's part of the working registers. -/
def Work.unpacked (w : Work) : Unpacked :=
  { acc := w.acc, nbits := w.nbits, nsym := w.nsym }

/-- The per-token step of the hardware unit (R95), with the bound of R128: "a valid token beyond the `S`-th is only
counted as overflow". -/
def Work.feed (w : Work) (t : Token) : Work :=
  if w.stopped then w
  else if t.valid then
    if w.nsym < Config.maxSymbols then
      let u := w.unpacked.push t.value
      { w with acc := u.acc, nbits := u.nbits, nsym := u.nsym }
    else { w with symOver := w.symOver + 1 }
  else { w with stopped := true }

/-- `UNPACK_CMD` (R99) with the capacity check decided; `ceil(nbits / 8)` bytes. -/
def unpackOut (tooMany : Bool) (u : Unpacked) : OutV :=
  if tooMany then OutV.fail .capacity false
  else
    let k := (u.nbits + 7) / 8
    OutV.success u.nbits u.nsym k (.bytes (beBytes u.acc k))

/-- `UNPACK_CMD(toks)` (R99). -/
def unpackCmd (toks : List Token) : OutV :=
  unpackOut (firstAllValid (Config.maxSymbols + 1) toks) (unpack toks)

/-- `WR CMD, 4` (R99, R122, R127). -/
def execUnpack (s : State) : Host.Outcome State Fault Refusal :=
  .next (s.cmdWrite .unpack).retire

end Sys2Proof.Machine
end

