-- ==== Sys2Proof/Machine/Decoder.lean ====
section
/-! DEFINITION. The Packet Codec's decode and the `DECODE` command (44_codec_decode.md R106 to R120). -/

namespace Sys2Proof.Machine

/-- Where steps 1 to 9 of R106 end: the empty shortcut, an error, or a packet whose checksum is still to be verified. -/
inductive Parse where
  | emptyShortcut
  | error (kind : ErrKind) (sub : Bool)
  | packet (bytes : List Byte) (retrieved : Chk) (consumed : Nat)
deriving DecidableEq, Repr

/-- What decode returns (R106), with the retrieved checksum that `DECODE` reports in `RESULT` (R120). -/
inductive DecodeResult where
  | ok (bytes : List Byte) (consumed : Nat) (retrieved : Chk)
  | err (kind : ErrKind) (sub : Bool)
deriving DecidableEq, Repr

/-- `payloadBitsPadded = numBits - (1 + C)` (R106 step 5). -/
def payloadBitsPadded (strong : Bool) (u : Unpacked) : Nat := u.nbits - (1 + codecWidth strong)

/-- `headerInt` (R106 step 5). -/
def headerInt (strong : Bool) (u : Unpacked) : Nat := u.acc >>> payloadBitsPadded strong u

/-- `payloadIntPadded` (R106 step 5). -/
def payloadIntPadded (strong : Bool) (u : Unpacked) : Nat :=
  u.acc &&& ((1 <<< payloadBitsPadded strong u) - 1)

/-- `parityBit` of a received header (R106 step 6). -/
def receivedParity (strong : Bool) (u : Unpacked) : Nat := headerInt strong u >>> codecWidth strong

/-- `retrievedChecksum` (R106 step 6). -/
def retrievedChecksum (strong : Bool) (u : Unpacked) : Chk :=
  BitVec.ofNat 17 (headerInt strong u &&& ((1 <<< codecWidth strong) - 1))

/-- `paddingBits` (R106 step 7, R113): the residue, read as 8 when it is 0 and the parity bit is 1. -/
def paddingBits (strong : Bool) (u : Unpacked) : Nat :=
  let r := payloadBitsPadded strong u % 8
  if r = 0 ∧ receivedParity strong u = 1 then 8 else r

/-- `recoveredBytes` (R106 step 9, R115). -/
def recoveredBytes (strong : Bool) (u : Unpacked) : List Byte :=
  let pad := paddingBits strong u
  beBytes (payloadIntPadded strong u >>> pad) ((payloadBitsPadded strong u - pad) / 8)

/-- Steps 4 to 9 of R106 over the unpacked symbols after the prefix. -/
def parseBits (strong : Bool) (start : Nat) (u : Unpacked) : Parse :=
  if u.nbits = 0 then .error .shortPacket true
  else if u.nbits < 1 + codecWidth strong then .error .shortPacket false
  else if payloadBitsPadded strong u < paddingBits strong u then .error .invalidPadding false
  else .packet (recoveredBytes strong u) (retrievedChecksum strong u) (start + u.nsym)

/-- Steps 1 to 9 of R106, from the first token (none for an empty input), whether more than `S` valid tokens follow the
prefix, and the unpacked symbols. -/
def parsePacket (lcfg : Word32) (firstTok : Option Token) (tooMany : Bool) (u : Unpacked) : Parse :=
  match firstTok with
  | none => if !pfx lcfg && emptyOk lcfg then .emptyShortcut else .error .emptyString false
  | some t =>
    if pfx lcfg && !t.sent then .error .invalidPrefix false
    else if tooMany then .error .capacity false
    else parseBits (csel lcfg) (if pfx lcfg then 1 else 0) u

/-- The bytes whose checksum step 10 needs; none when an earlier step has decided the result (R129). -/
def Parse.toVerify (p : Parse) : Option (List Byte) :=
  match p with
  | .emptyShortcut => none
  | .error _ _ => none
  | .packet bytes _ _ => some bytes

/-- Steps 10 and 11 of R106, given the recomputed checksum. -/
def Parse.verify (p : Parse) (chk : Chk) : DecodeResult :=
  match p with
  | .emptyShortcut => .ok [] 0 0
  | .error kind sub => .err kind sub
  | .packet bytes retrieved consumed =>
    if chk = retrieved then .ok bytes consumed retrieved else .err .checksumMismatch false

/-- The tokens of an input that follow the prefix (R106 step 2, R108). -/
def afterPrefix (lcfg : Word32) (toks : List Token) : List Token :=
  if pfx lcfg then toks.drop 1 else toks

/-- Steps 1 to 9 of R106 on a whole token sequence. -/
def parseTokens (lcfg : Word32) (toks : List Token) : Parse :=
  let body := afterPrefix lcfg toks
  parsePacket lcfg toks.head? (firstAllValid (Config.maxSymbols + 1) body) (unpack body)

/-- `decode(toks, C, PFX, EMPTYOK)` (R106), the three options as fields of `lcfg`. -/
def packetDecode (lcfg : Word32) (toks : List Token) : DecodeResult :=
  let p := parseTokens lcfg toks
  match p.toVerify with
  | some bytes => p.verify (checksum (csel lcfg) bytes)
  | none => p.verify 0

/-- The result of decode as the values `DECODE` commits (R120). -/
def DecodeResult.toOutV (r : DecodeResult) : OutV :=
  match r with
  | .ok bytes consumed retrieved => OutV.success retrieved.toNat consumed bytes.length (.bytes bytes)
  | .err kind sub => OutV.fail kind sub

/-- `DECODE_CMD(toks, LCFG)` (R120). -/
def decodeCmd (lcfg : Word32) (toks : List Token) : OutV :=
  (packetDecode lcfg toks).toOutV

/-- `WR CMD, 1` (R120, R122, R127). -/
def execDecode (s : State) : Host.Outcome State Fault Refusal :=
  .next (s.cmdWrite .decode).retire

end Sys2Proof.Machine
end

