-- ==== Sys2Proof/Machine/Sequencer.lean ====
section
/-! DEFINITION. The core's steps: `COLLECT`, `COMPUTE`, `COMMIT` (45_host_interface.md R128 to R130). -/

namespace Sys2Proof.Machine

/-- A data byte of a `BIN` command (R128): "kept in `INB` if `INB` holds fewer than `P` bytes and otherwise only counted
as overflow". -/
def Work.keepByte (w : Work) (b : Byte) : Work :=
  if w.inb.length < Config.maxPayload then { w with inb := w.inb ++ [b] }
  else { w with byteOver := w.byteOver + 1 }

/-- A token of a `TIN` command (R128): the first is kept; it is not fed to the unpacker when it is the prefix of a
`DECODE`. -/
def Work.takeToken (w : Work) (lop : Cmd) (lcfg : Word32) (t : Token) : Work :=
  match w.firstTok with
  | some _ => w.feed t
  | none =>
    let w' := { w with firstTok := some t }
    if lop = .decode ∧ pfx lcfg then w' else w'.feed t

/-- The `COLLECT` step (R128): one item of the command's input FIFO; no step while it is empty. -/
def State.collect (s : State) : State :=
  match s.lop.inPort with
  | .bin =>
    match s.bin with
    | [] => s
    | x :: rest =>
      if x.isEnd then { s with bin := rest, fsm := .compute }
      else { s with bin := rest, work := s.work.keepByte x.byte }
  | .tin =>
    match s.tin with
    | [] => s
    | t :: rest =>
      if t.isEnd then { s with tin := rest, fsm := .compute }
      else { s with tin := rest, work := s.work.takeToken s.lop s.lcfg t }
  | .none => s

/-- More than `P` bytes were collected. -/
def Work.bytesOver (w : Work) : Bool := w.byteOver != 0

/-- Steps 1 to 9 of decode over the working registers. -/
def Work.parse (w : Work) (lcfg : Word32) : Parse :=
  parsePacket lcfg w.firstTok (w.symOver != 0) w.unpacked

/-- The bytes whose checksum the command needs (R129): "An error found before the checksum is needed issues no request". -/
def Work.toCheck (w : Work) (lop : Cmd) (lcfg : Word32) : Option (List Byte) :=
  match lop with
  | .encode => if w.bytesOver then none else some w.inb
  | .decode => (w.parse lcfg).toVerify
  | .checksum => if w.bytesOver then none else some w.inb
  | .pack => none
  | .unpack => none
  | .illegal => none

/-- The command's pure function over the collected input (R129), given the checksum when it needs one. -/
def Work.outcome (w : Work) (lop : Cmd) (lcfg larg : Word32) (chk : Chk) : OutV :=
  match lop with
  | .encode => encodeOut w.bytesOver lcfg chk w.inb
  | .decode => ((w.parse lcfg).verify chk).toOutV
  | .checksum => checksumOut w.bytesOver chk
  | .pack => packOut w.bytesOver w.inb larg.toNat
  | .unpack => unpackOut (w.symOver != 0) w.unpacked
  | .illegal => OutV.fail .illegalCommand false

/-- `OUTV` is decided: on to `COMMIT` (R129). -/
def State.finish (s : State) : State :=
  { s with
    work := { s.work with outv := s.work.outcome s.lop s.lcfg s.larg s.work.chk }
    fsm := .commit }

/-- `Digest(q)` is issued: `DPEND <- 1` (R35, R129). -/
def State.askDigest (s : State) (q : List Byte) : State :=
  { s with dpend := true, dreq := q }

/-- `CHK` takes the running command's checksum. -/
def Work.setChk (w : Work) (c : Chk) : Work :=
  { w with chk := c, chkDone := true }

/-- The `COMPUTE` steps (R87, R129). A checksum that is needed and not yet there is computed (fast variant) or requested
(strong variant, no step while `DPEND = 1`); then the pure function gives `OUTV`. The fast checksum takes a step of its
own; how many more pass is the scheduler's choice (logs 1, 10). -/
def State.compute (s : State) : State :=
  if s.dpend then s
  else
    match s.work.toCheck s.lop s.lcfg with
    | none => s.finish
    | some q =>
      if s.work.chkDone then s.finish
      else if csel s.lcfg then s.askDigest q
      else { s with work := s.work.setChk (checksum false q) }

/-- A step of the core (R23). -/
def State.coreStep (s : State) : State :=
  match s.fsm with
  | .idle => s
  | .collect => s.collect
  | .compute => s.compute
  | .commit => s.commit

end Sys2Proof.Machine
end

