-- ==== Sys2Proof/Machine/Platform.lean ====
section
/-! DEFINITION. The digest provider's step (60_exceptions.md R141), the platform's reset (70_reset_and_hazards.md R148,
R149), whose turn it is (20_memory.md R55), and the fetch of the host's next operation word. -/

namespace Sys2Proof.Machine

/-- The provider answers the outstanding request (R141): `d = DIGEST(q)`, `DPEND <- 0`, and the core goes on with
`trunc17(d)`. Without an outstanding request the provider has no step. -/
def State.digestAnswer (s : State) : State :=
  if s.dpend then
    { s with dpend := false, dreq := [], work := s.work.setChk (trunc17 (Config.digest s.dreq)) }
  else s

/-- "an answer that arrives after the reset that cleared its request is discarded" (R35, R149). -/
def State.lateAnswer (s : State) : State :=
  { s with late := s.late.tail }

/-- Reset, one atomic event (R148): every piece of the block's state takes its reset value. A command in progress is
aborted with nothing committed, and the answer to an outstanding request becomes a late one (R149). The host's pending
operations, its last reply and the scheduler are not the block's and stay (log 18). -/
def State.platformReset (s : State) : State :=
  { State.reset with
    late := if s.dpend then s.late ++ [s.dreq] else s.late
    hostq := s.hostq
    reply := s.reply
    sched := s.sched
    tick := s.tick }

/-- How many turns pass from step `n` until the core's turn is due: `gap` chooses it at the start and again after each
turn at which the core's turn was due. -/
def turnsToCore (gap : Nat → Nat) (n : Nat) : Nat :=
  match n with
  | 0 => gap 0
  | n + 1 =>
    match turnsToCore gap n with
    | 0 => gap (n + 1)
    | k + 1 => k

/-- An order of turns in which the core's turn always comes again, "weak fairness of the core's enabled steps" (R160):
`free` chooses every turn but those at which the core's is due. -/
def fairTurn (gap : Nat → Nat) (free : Nat → Turn) (n : Nat) : Turn :=
  match turnsToCore gap n with
  | 0 => .core
  | _ + 1 => free n

/-- Who moves now: the head of the schedule, and a free but weakly fair choice when the schedule, which is finite, says
nothing (R160; logs 1, 16). -/
def State.turn (s : State) : Turn :=
  match s.sched with
  | [] => fairTurn Config.freeGap Config.freeTurn s.tick
  | t :: _ => t

/-- The turn is taken. -/
def State.nextTurn (s : State) : State :=
  { s with sched := s.sched.tail, tick := s.tick + 1 }

/-- The host operation word to perform next. -/
def State.fetch (s : State) : Option HostWord := s.hostq.head?

/-- The word goes in front of the host's pending operations, and the next turn is the host's. -/
def State.placeWord (s : State) (w : HostWord) : State :=
  { s with hostq := w :: s.hostq, sched := .host :: s.sched }

end Sys2Proof.Machine
end

