-- ==== Sys2Proof/Machine/Registers.lean ====
section
/-! DEFINITION. The register operations `RD` and `WR` (45_host_interface.md R121, R122). -/

namespace Sys2Proof.Machine

/-- `RD <slot>` (R121): "Returns the 32-bit value of the register in the slot ... No state changes. Always enabled." -/
def execRd (slot : Slot) (s : State) : Host.Outcome State Fault Refusal :=
  .next (s.answer (.reg (s.readReg slot))).retire

/-- `WR <slot>, v` (R122): always enabled. -/
def execWr (slot : Slot) (data : Word32) (s : State) : Host.Outcome State Fault Refusal :=
  .next (s.writeReg slot data).retire

end Sys2Proof.Machine
end

