-- ==== Sys2Proof/Machine/Stream.lean ====
section
/-! DEFINITION. The FIFO operations `PUSHB`, `PUSHT`, `POPS` and `POPB` (45_host_interface.md R123 to R126). A push to a
full FIFO and a pop from an empty one "have no step: the agent waits" (10_state.md R37): the operation stays at the head
of the host's queue and nothing changes (log 3). -/

namespace Sys2Proof.Machine

/-- `PUSHB x` (R123). -/
def execPushb (item : BinItem) (s : State) : Host.Outcome State Fault Refusal :=
  .next (s.pushOrWait (s.pushBin item))

/-- `PUSHT x` (R124). -/
def execPusht (item : Token) (s : State) : Host.Outcome State Fault Refusal :=
  .next (s.pushOrWait (s.pushTin item))

/-- `POPS` (R125): removes and returns the head item of `SOUT`. -/
def execPops (s : State) : Host.Outcome State Fault Refusal :=
  match s.popSout with
  | some (x, s') => .next (s'.answer (.sym x)).retire
  | none => .next s

/-- `POPB` (R126): removes and returns the head byte of `BOUT`. -/
def execPopb (s : State) : Host.Outcome State Fault Refusal :=
  match s.popBout with
  | some (x, s') => .next (s'.answer (.byte x)).retire
  | none => .next s

end Sys2Proof.Machine
end

