-- ==== Sys2Proof/Machine/Dispatch.lean ====
section
/-! DEFINITION. One arm for each host operation. -/

namespace Sys2Proof.Machine

/-- The meaning of a host operation (45_host_interface.md). -/
def exec (i : Instr) (s : State) : Host.Outcome State Fault Refusal :=
  match i with
  | .rd slot => Sys2Proof.Machine.execRd slot s
  | .wr slot data => Sys2Proof.Machine.execWr slot data s
  | .encode => Sys2Proof.Machine.execEncode s
  | .decode => Sys2Proof.Machine.execDecode s
  | .checksum => Sys2Proof.Machine.execChecksum s
  | .pack => Sys2Proof.Machine.execPack s
  | .unpack => Sys2Proof.Machine.execUnpack s
  | .cmdIllegal data => Sys2Proof.Machine.execCmdIllegal data s
  | .pushb item => Sys2Proof.Machine.execPushb item s
  | .pusht item => Sys2Proof.Machine.execPusht item s
  | .pops => Sys2Proof.Machine.execPops s
  | .popb => Sys2Proof.Machine.execPopb s

end Sys2Proof.Machine
end

