-- ==== Sys2Proof/Machine/HostTurn.lean ====
section
/-! DEFINITION. The host's turn: fetching, decoding and running its next operation word. -/

namespace Sys2Proof.Machine

/-- The host performs its next operation word; with none pending it does nothing (log 2). A word that spells no host
operation is refused: "a model refuses it" (30_encoding.md R73, R77 e). -/
def hostStep (s : State) : Host.Outcome State Fault Refusal :=
  match s.fetch with
  | none => .next s
  | some w =>
    match decode w with
    | .ok i => exec i s
    | .error why => .refused (.badHostWord why)

end Sys2Proof.Machine
end

