-- ==== Sys2Proof/Machine/Step.lean ====
section
/-! DEFINITION. One step of the machine: the agent whose turn it is moves (20_memory.md R55). -/

namespace Sys2Proof.Machine

/-- One step: an agent that has no step leaves the state as it is. -/
def step (s : State) : Host.Outcome State Fault Refusal :=
  match s.turn with
  | .host => hostStep s.nextTurn
  | .core => .next s.nextTurn.coreStep
  | .digest => .next s.nextTurn.digestAnswer
  | .lateDigest => .next s.nextTurn.lateAnswer
  | .reset => .next s.nextTurn.platformReset
  | .quiet => .next s.nextTurn

/-- The instruction whose 40 bits are `w` (bits above `nbits` are 0), placed where the next step fetches it: at the head
of the host's pending operations, with the next turn the host's. -/
def State.withFetchWord (s : State) (nbits w : Nat) : State :=
  s.placeWord (BitVec.ofNat 40 (w % 2 ^ nbits))

end Sys2Proof.Machine
end

