-- ==== Sys2Proof/Safety.lean ====
section
/-! DEFINITION. What the statements about this machine speak of: the invariant of a core instance, what a running command
will commit (45_host_interface.md R131), faithful tokens (44_codec_decode.md R119), and what of a state can matter to the
host later (10_state.md R20). -/

namespace Sys2Proof.Machine

/-! Inputs. -/

/-- The bytes of a `BIN` sequence before its first `END` item (R67); none when it holds no `END`. -/
def bytesToEnd (items : List BinItem) : Option (List Byte) :=
  match items with
  | [] => none
  | x :: rest => if x.isEnd then some [] else (bytesToEnd rest).map (x.byte :: ·)

/-- The tokens of a `TIN` sequence before its first `END` item (R69); none when it holds no `END`. -/
def tokensToEnd (items : List Token) : Option (List Token) :=
  match items with
  | [] => none
  | t :: rest => if t.isEnd then some [] else (tokensToEnd rest).map (t :: ·)

/-- A token that a faithful Alphabet Table gives for a `SOUT` item (R119): a symbol's token is valid and carries its
value; the sentinel's token has `SENT = 1`. The remaining bits are any. -/
def Faithful (x : SymItem) (t : Token) : Prop :=
  (x.sent = false → t.valid = true ∧ t.value = x.value) ∧ (x.sent = true → t.sent = true)

/-- A token sequence at which the unpacker stops at once: "empty or begins with a token with `VALID = 0`" (R119). -/
def StopsUnpacker (rest : List Token) : Prop :=
  ∀ t, rest.head? = some t → t.valid = false

/-! What a running command will commit. -/

/-- The working registers after `COLLECT` has taken these bytes (R128). -/
def Work.collectBytes (w : Work) (p : List Byte) : Work := p.foldl Work.keepByte w

/-- The working registers after `COLLECT` has taken these tokens (R128). -/
def Work.collectTokens (w : Work) (lop : Cmd) (lcfg : Word32) (toks : List Token) : Work :=
  toks.foldl (fun w t => w.takeToken lop lcfg t) w

/-- The command's pure function over the collected input, the checksum being that of R85. -/
def Work.pureOutcome (w : Work) (lop : Cmd) (lcfg larg : Word32) : OutV :=
  match w.toCheck lop lcfg with
  | some q => w.outcome lop lcfg larg (checksum (csel lcfg) q)
  | none => w.outcome lop lcfg larg 0

/-- What the command in progress will commit, once its whole input with the `END` item is in its FIFO. -/
def State.expected (s : State) : Option OutV :=
  match s.fsm with
  | .idle => none
  | .collect =>
    match s.lop.inPort with
    | .bin => (bytesToEnd s.bin).map fun p => (s.work.collectBytes p).pureOutcome s.lop s.lcfg s.larg
    | .tin =>
      (tokensToEnd s.tin).map fun toks =>
        (s.work.collectTokens s.lop s.lcfg toks).pureOutcome s.lop s.lcfg s.larg
    | .none => none
  | .compute => some (s.work.pureOutcome s.lop s.lcfg s.larg)
  | .commit => some s.work.outv

/-- The effect of committing `o` on what the host can see (R130). -/
def CommittedTo (s t : State) (o : OutV) : Prop :=
  t.fsm = .idle ∧ t.status = s.status.committed o ∧ t.result = o.result ∧ t.consumed = o.consumed ∧
    t.outlen = o.outlen ∧ t.sout = s.sout ++ o.items.toSout ∧ t.bout = s.bout ++ o.items.toBout

/-- The pure function of a command that reads `BIN` (R76), on the input bytes. -/
def binCommand (c : Cmd) (lcfg larg : Word32) (p : List Byte) : OutV :=
  match c with
  | .encode => encodeCmd lcfg p
  | .checksum => checksumCmd lcfg p
  | .pack => packCmd larg p
  | .decode => OutV.zero
  | .unpack => OutV.zero
  | .illegal => OutV.zero

/-- The pure function of a command that reads `TIN` (R76), on the input tokens. -/
def tinCommand (c : Cmd) (lcfg : Word32) (toks : List Token) : OutV :=
  match c with
  | .decode => decodeCmd lcfg toks
  | .unpack => unpackCmd toks
  | .encode => OutV.zero
  | .checksum => OutV.zero
  | .pack => OutV.zero
  | .illegal => OutV.zero

/-- The turns in which a command with `n` input items, all of them in its FIFO, runs to its commit when nobody else
moves: one `COLLECT` step for each item and the `END`, then the `COMPUTE` steps with the provider's answer among them,
then the commit. A turn in which the agent has no step changes nothing. -/
def commandTurns (n : Nat) : List Turn :=
  List.replicate (n + 1) Turn.core ++ [Turn.core, Turn.digest, Turn.core, Turn.core]

/-! Liveness (70_reset_and_hazards.md R160). -/

/-- Every pending host word spells a host operation: the host stays within the block's domain (R73). -/
def State.HostSpells (s : State) : Prop :=
  ∀ w ∈ s.hostq, ∃ i, decode w = .ok i

/-- From `s` the machine comes, in finitely many steps, to a state with `p`. -/
def State.LeadsTo (s : State) (p : State → Prop) : Prop :=
  ∃ n t, Host.Core.run Sys2Proof.core n s = .next t ∧ p t

/-! The invariant. -/

/-- What every `OUTV` about to be committed satisfies (R31, R34, R134): an error commits nothing else, `SHORTSUB` belongs
to `SHORT_PACKET`, `OUTLEN` counts the items, and the items fit into empty output FIFOs (R6). -/
structure OutV.Sound (o : OutV) : Prop where
  error_zero : o.err ≠ .none → o.result = 0 ∧ o.consumed = 0 ∧ o.outlen = 0 ∧ o.items = .none
  shortsub_short : o.shortsub = true → o.err = .shortPacket
  outlen_counts : o.outlen.toNat = o.items.toSout.length + o.items.toBout.length
  sout_fits : o.items.toSout.length ≤ Config.maxSymbols + 1
  bout_fits : o.items.toBout.length ≤ (9 * Config.maxSymbols + 7) / 8

/-- The bounds of R19 on the working registers, which hold at all times. -/
structure Work.Bounded (w : Work) : Prop where
  inb_le : w.inb.length ≤ Config.maxPayload
  nsym_le : w.nsym ≤ Config.maxSymbols
  nbits_le : w.nbits ≤ 9 * Config.maxSymbols
  acc_lt : w.acc < 2 ^ (9 * Config.maxSymbols)

/-- What holds of the working registers while a command collects and computes (R97, R128): the unpacker's counters agree,
and overflow is counted only when the register is full. -/
structure Work.Collected (w : Work) : Prop where
  nbits_nsym : w.nbits = 9 * w.nsym
  acc_nbits : w.acc < 2 ^ w.nbits
  sym_full : w.symOver ≠ 0 → w.nsym = Config.maxSymbols
  byte_full : w.byteOver ≠ 0 → w.inb.length = Config.maxPayload

/-- The invariant of a core instance: it holds at reset and every step keeps it. -/
structure State.Inv (s : State) : Prop where
  /-- Reserved bits of `CFG` read 0 (R28). -/
  cfg_reserved : s.cfg.toNat < 8
  lcfg_reserved : s.lcfg.toNat < 8
  /-- "Every state except `IDLE` has `STATUS.BUSY = 1`" (R23). -/
  busy_iff : s.status.busy = true ↔ s.fsm ≠ .idle
  /-- `DONE` is 0 from each accepted `CMD` write until the commit (R31). -/
  done_idle : s.status.done = true → s.fsm = .idle
  /-- Codes 9 to 15 are never written (R134). -/
  err_le : s.status.err.toNat ≤ 8
  /-- `SHORTSUB` is 0 for every `ERR` but 3 (R31). -/
  shortsub_err : s.status.shortsub = true → s.status.err = 3
  /-- An error leaves `RESULT`, `CONSUMED` and `OUTLEN` 0 (R134). -/
  error_zero : s.status.err ≠ 0 → s.result = 0 ∧ s.consumed = 0 ∧ s.outlen = 0
  /-- No FIFO holds more than its capacity (R37). -/
  bin_cap : s.bin.length ≤ Config.capBin
  tin_cap : s.tin.length ≤ Config.capTin
  sout_cap : s.sout.length ≤ Config.capSout
  bout_cap : s.bout.length ≤ Config.capBout
  /-- A digest request is outstanding only while a strong-variant command waits in `COMPUTE` for the checksum of those
  bytes (R35, R129). -/
  dpend_waits : s.dpend = true →
    s.fsm = .compute ∧ csel s.lcfg = true ∧ s.work.chkDone = false ∧ s.work.toCheck s.lop s.lcfg = some s.dreq
  /-- The illegal command never collects or computes (R23, R127). -/
  running_legal : s.fsm = .collect ∨ s.fsm = .compute → s.lop ≠ .illegal
  work_bounded : s.work.Bounded
  work_collected : s.fsm = .collect ∨ s.fsm = .compute → s.work.Collected
  /-- No checksum is there before the input is complete (R127, R129). -/
  chk_collect : s.fsm = .collect → s.work.chkDone = false
  /-- `CHK` is the checksum the command needs (R85, R129). -/
  chk_compute : s.fsm = .compute → s.work.chkDone = true →
    ∃ q, s.work.toCheck s.lop s.lcfg = some q ∧ s.work.chk = checksum (csel s.lcfg) q
  outv_sound : s.fsm = .commit → s.work.outv.Sound

/-! What can matter later. -/

/-- The state with every value blanked that R19, R20 and R41 say no rule reads before it is written: in `IDLE` the
working registers and the latched context; in `COMMIT` the same, except `OUTV`. -/
def State.visible (s : State) : State :=
  match s.fsm with
  | .idle => { s with lop := .encode, lcfg := 0, larg := 0, work := Work.cleared }
  | .commit =>
    { s with lop := .encode, lcfg := 0, larg := 0, work := { Work.cleared with outv := s.work.outv } }
  | .collect => s
  | .compute => s

end Sys2Proof.Machine
end

