-- ==== Sys2Proof/Certificates/Slice0/Obligations.lean ====
section
/-! DEFINITION. The statements for the provers. Each docstring says which rule of the spec it formalises, and what in it
is the model's own (with the log entry). -/

open Sys2Proof Sys2Proof.Machine

/-! ## Host operation words -/

/-- R73, R74: every host operation's word decodes to that operation, whatever its fields hold. -/
def Obligations.DecodeOfEncodeGivesBack : Prop :=
  ∀ i : Instr, i.wellFormed = true → decode (encode i) = .ok i

/-- R73, R74: a word that spells a host operation is that operation's only word, and the operation is well formed. -/
def Obligations.EncodeOfDecodeGivesBack : Prop :=
  ∀ (w : HostWord) (i : Instr), decode w = .ok i → i.wellFormed = true ∧ encode i = w

/-- R73: "the matching row with the most mask bits set applies", for every 40-bit word; and where no row matches, the
word spells no operation. -/
def Obligations.TableRowDecides : Prop :=
  (∀ (w : HostWord) (i : Instr), decode w = .ok i →
    ∃ r, matchingRow w = some r ∧ r ∈ opcodeRows ∧ r.mnemonic = i.mnemonic) ∧
  ∀ (w : HostWord) (why : WordError), decode w = .error why → matchingRow w = none

/-- Words of the spec's programs (95_test_vectors.md 3.1 to 3.5, R80) decode to the operations written beside them. -/
def Obligations.ProgramWordsDecode : Prop :=
  decode 0x1000000002 = .ok (.wr 0 2) ∧ decode 0x0300000000 = .ok (.rd 3) ∧
  decode 0x1100000001 = .ok .decode ∧ decode 0x1100000007 = .ok (.cmdIllegal 7) ∧
  decode 0x2000000100 = .ok (.pushb { byte := 0, isEnd := true }) ∧
  decode 0x300000023D = .ok (.pusht { value := 0x03D, valid := true, sent := false, isEnd := false }) ∧
  decode 0x4000000000 = .ok .pops ∧ decode 0x5000000000 = .ok .popb

/-- R73: "A word with a reserved `KIND`, bit 35 set, a nonzero `SLOT` outside `RD`/`WR`, or nonzero bits outside the used
`DATA` bits spells no host operation; a model refuses it", and no other word is refused. -/
def Obligations.WordsThatSpellNothingAreRefused : Prop :=
  (∀ w : HostWord,
    (∃ why, decode w = .error why) ↔
      (6 ≤ (hostKind w).toNat ∨ w.getLsbD 35 = true ∨
        (2 ≤ (hostKind w).toNat ∧ hostSlot w ≠ 0) ∨
        (((hostKind w).toNat = 0 ∨ (hostKind w).toNat = 4 ∨ (hostKind w).toNat = 5) ∧ hostData w ≠ 0) ∨
        ((hostKind w).toNat = 2 ∧ 2 ^ 9 ≤ (hostData w).toNat) ∨
        ((hostKind w).toNat = 3 ∧ 2 ^ 12 ≤ (hostData w).toNat))) ∧
  ∀ (s : State) (w : HostWord) (rest : List HostWord) (why : WordError),
    s.turn = .host → s.hostq = w :: rest → decode w = .error why → step s = .refused (.badHostWord why)

/-! ## The step -/

/-- The host's turn runs the operation that the head word of its queue spells, in the state with the turn taken; the
meaning itself moves past the word. The queue and the turn are the model's (logs 1, 2). -/
def Obligations.StepRunsDecodedInstruction : Prop :=
  ∀ (s : State) (w : HostWord) (rest : List HostWord) (i : Instr),
    s.turn = .host → s.hostq = w :: rest → decode w = .ok i →
    step s = exec i { s with sched := s.sched.tail, tick := s.tick + 1 }

/-- A well-formed operation placed by `withFetchWord` is the one the very next step runs (log 2). -/
def Obligations.PlacedWordRunsNext : Prop :=
  ∀ (s : State) (i : Instr), i.wellFormed = true →
    step (s.withFetchWord 40 (encode i).toNat) =
      exec i { s with hostq := encode i :: s.hostq, tick := s.tick + 1 }

/-- R55, R160: at each step the agent whose turn it is moves, and a turn of nobody, or of a host with nothing pending,
changes nothing but the turn (logs 1, 2). -/
def Obligations.OneAgentMovesAtAStep : Prop :=
  ∀ s : State, let s' := { s with sched := s.sched.tail, tick := s.tick + 1 }
    (s.turn = .core → step s = .next s'.coreStep) ∧
    (s.turn = .digest → step s = .next s'.digestAnswer) ∧
    (s.turn = .lateDigest → step s = .next s'.lateAnswer) ∧
    (s.turn = .reset → step s = .next s'.platformReset) ∧
    (s.turn = .quiet → step s = .next s') ∧
    (s.turn = .host → s.hostq = [] → step s = .next s')

/-! ## Register operations -/

/-- R121, R52: `RD` returns the register of the slot, is always enabled, and changes nothing in the block. -/
def Obligations.RdReturnsTheSlotsRegister : Prop :=
  ∀ s : State,
    let got := fun v : Word32 => Host.Outcome.next { s with reply := .reg v, hostq := s.hostq.tail }
    exec (.rd 0) s = got s.cfg ∧ exec (.rd 1) s = got 0 ∧ exec (.rd 2) s = got s.arg ∧
    exec (.rd 3) s = got s.status.word ∧ exec (.rd 4) s = got s.result ∧ exec (.rd 5) s = got s.consumed ∧
    exec (.rd 6) s = got s.outlen ∧ exec (.rd 7) s = got 0

/-- R31: which bit of `STATUS` is which; reserved bits 3 and 31:9 read 0. -/
def Obligations.StatusWordBits : Prop :=
  ∀ (f : Status) (i : Nat),
    f.word.getLsbD i =
      if i = 0 then f.busy else if i = 1 then f.done else if i = 2 then f.ovr
      else if 4 ≤ i ∧ i ≤ 7 then f.err.getLsbD (i - 4)
      else if i = 8 then f.shortsub else false

/-- R122, R28, R30, R36: `WR` to `CFG` stores bits 2:0 and nothing else of the value, to `ARG` stores it all, and to a
read-only or reserved slot has no effect; every other part of the state is as before. -/
def Obligations.WrStoresTheSlotsRegister : Prop :=
  (∀ (s : State) (v : Word32),
    (∃ c : Word32, exec (.wr 0 v) s = .next { s with cfg := c, hostq := s.hostq.tail } ∧
      ∀ i, c.getLsbD i = (decide (i < 3) && v.getLsbD i)) ∧
    exec (.wr 2 v) s = .next { s with arg := v, hostq := s.hostq.tail }) ∧
  ∀ (s : State) (slot : Slot) (v : Word32), 3 ≤ slot.toNat →
    exec (.wr slot v) s = .next { s with hostq := s.hostq.tail }

/-- R127, R38, R29: a `CMD` write in `IDLE` is accepted. The five commands latch `LOP`, `LCFG` and `LARG`, clear the
working registers and collect; an illegal command word latches the same and is about to commit error 6. Nothing else of
the state changes. -/
def Obligations.CommandWriteIsAcceptedInIdle : Prop :=
  ∀ s : State, s.fsm = .idle →
    let run := fun (c : Cmd) (f : Fsm) (w : Work) => Host.Outcome.next
      { s with
        lop := c, lcfg := s.cfg, larg := s.arg, fsm := f, work := w, hostq := s.hostq.tail
        status := { s.status with done := false, busy := true, ovr := false } }
    exec .encode s = run .encode .collect Work.cleared ∧
    exec .decode s = run .decode .collect Work.cleared ∧
    exec .checksum s = run .checksum .collect Work.cleared ∧
    exec .pack s = run .pack .collect Work.cleared ∧
    exec .unpack s = run .unpack .collect Work.cleared ∧
    ∀ data : Word32, 5 ≤ data.toNat →
      exec (.cmdIllegal data) s =
        run .illegal .commit
          { s.work with
            outv :=
              { err := .illegalCommand, shortsub := false, result := 0, consumed := 0, outlen := 0,
                items := .none } }

/-- R29, R154: a `CMD` write while the block is busy is dropped: `OVR` is set and nothing else changes. -/
def Obligations.CommandWriteIsDroppedWhenBusy : Prop :=
  ∀ (s : State) (i : Instr), s.fsm ≠ .idle →
    (i = .encode ∨ i = .decode ∨ i = .checksum ∨ i = .pack ∨ i = .unpack ∨ ∃ data, i = .cmdIllegal data) →
    exec i s = .next { s with status := { s.status with ovr := true }, hostq := s.hostq.tail }

/-! ## FIFO operations -/

/-- R123, R124, R56: a push appends its item at the end while the FIFO holds fewer items than its capacity; no register
and no other FIFO changes. -/
def Obligations.PushAppendsItsItem : Prop :=
  (∀ (s : State) (x : BinItem), s.bin.length < Config.capBin →
    exec (.pushb x) s = .next { s with bin := s.bin ++ [x], hostq := s.hostq.tail }) ∧
  ∀ (s : State) (x : Token), s.tin.length < Config.capTin →
    exec (.pusht x) s = .next { s with tin := s.tin ++ [x], hostq := s.hostq.tail }

/-- R125, R126, R56: a pop removes and returns the head item; no register and no other FIFO changes. -/
def Obligations.PopReturnsTheHeadItem : Prop :=
  (∀ (s : State) (x : SymItem) (rest : List SymItem), s.sout = x :: rest →
    exec .pops s = .next { s with sout := rest, reply := .sym x, hostq := s.hostq.tail }) ∧
  ∀ (s : State) (x : Byte) (rest : List Byte), s.bout = x :: rest →
    exec .popb s = .next { s with bout := rest, reply := .byte x, hostq := s.hostq.tail }

/-- R37: "A push to a full FIFO and a pop from an empty FIFO have no step: the agent waits". That a waiting host leaves
the state as it is, with the operation still at the head of its queue, is the model's reading (log 3). -/
def Obligations.PushAndPopWait : Prop :=
  ∀ s : State,
    (Config.capBin ≤ s.bin.length → ∀ x, exec (.pushb x) s = .next s) ∧
    (Config.capTin ≤ s.tin.length → ∀ x, exec (.pusht x) s = .next s) ∧
    (s.sout = [] → exec .pops s = .next s) ∧
    (s.bout = [] → exec .popb s = .next s)

/-! ## Whole-machine rules -/

/-- R38, R122, R158, R154: while a command runs, no host operation touches it: not its latched context, its working
registers, its digest request, its results or the sequencer; pushes only add at the end of an input FIFO and pops only
take from the front of an output FIFO. -/
def Obligations.HostOperationsLeaveTheRunningCommandAlone : Prop :=
  ∀ (i : Instr) (s t : State), s.fsm ≠ .idle → exec i s = .next t →
    t.fsm = s.fsm ∧ t.lop = s.lop ∧ t.lcfg = s.lcfg ∧ t.larg = s.larg ∧ t.work = s.work ∧
    t.dpend = s.dpend ∧ t.dreq = s.dreq ∧ t.late = s.late ∧
    t.result = s.result ∧ t.consumed = s.consumed ∧ t.outlen = s.outlen ∧
    t.status.busy = s.status.busy ∧ t.status.done = s.status.done ∧ t.status.err = s.status.err ∧
    t.status.shortsub = s.status.shortsub ∧
    s.bin <+: t.bin ∧ s.tin <+: t.tin ∧ t.sout <:+ s.sout ∧ t.bout <:+ s.bout ∧
    t.sched = s.sched ∧ t.tick = s.tick

/-- R32, R33, R34, R40, R155: `RESULT`, `CONSUMED`, `OUTLEN`, `ERR` and `SHORTSUB` change only when a command commits, or
by a reset. -/
def Obligations.ResultsChangeOnlyAtCommitOrReset : Prop :=
  ∀ s t : State, step s = .next t →
    (t.result ≠ s.result ∨ t.consumed ≠ s.consumed ∨ t.outlen ≠ s.outlen ∨ t.status.err ≠ s.status.err ∨
      t.status.shortsub ≠ s.status.shortsub) →
    (s.turn = .core ∧ s.fsm = .commit ∧ t.fsm = .idle ∧ t.status.done = true) ∨ s.turn = .reset

/-- R23: the sequencer moves only along the transitions the rule lists, each by the agent and on the event it names; a
reset (R148) takes it to `IDLE`. -/
def Obligations.SequencerTransitions : Prop :=
  ∀ s t : State, step s = .next t → t.fsm ≠ s.fsm →
    (s.turn = .host ∧ s.fsm = .idle ∧ t.fsm = .collect ∧ t.lop ≠ .illegal ∧ t.status.busy = true) ∨
    (s.turn = .host ∧ s.fsm = .idle ∧ t.fsm = .commit ∧ t.lop = .illegal ∧ t.status.busy = true) ∨
    (s.turn = .core ∧ s.fsm = .collect ∧ t.fsm = .compute ∧
      ((∃ x, x.isEnd = true ∧ s.bin = x :: t.bin) ∨ ∃ x, x.isEnd = true ∧ s.tin = x :: t.tin)) ∨
    (s.turn = .core ∧ s.fsm = .compute ∧ t.fsm = .commit) ∨
    (s.turn = .core ∧ s.fsm = .commit ∧ t.fsm = .idle ∧ t.status.busy = false) ∨
    (s.turn = .reset ∧ t.fsm = .idle)

/-- R37, R55, R56: in any step but a reset, an input FIFO changes only by the host's push at its end or by the pop of its
head in `COLLECT` of a command that reads it ("The core pops only the input FIFO of the current command and pushes only at
commit"), and an output FIFO only by the host's pop of its head or by the items a commit appends. -/
def Obligations.FifosChangeOnlyAtTheirEnds : Prop :=
  ∀ s t : State, step s = .next t → s.turn ≠ .reset →
    (t.bin = s.bin ∨ (s.turn = .host ∧ ∃ x, t.bin = s.bin ++ [x]) ∨
      (s.turn = .core ∧ s.fsm = .collect ∧ s.lop.inPort = .bin ∧ ∃ x, s.bin = x :: t.bin)) ∧
    (t.tin = s.tin ∨ (s.turn = .host ∧ ∃ x, t.tin = s.tin ++ [x]) ∨
      (s.turn = .core ∧ s.fsm = .collect ∧ s.lop.inPort = .tin ∧ ∃ x, s.tin = x :: t.tin)) ∧
    (t.sout = s.sout ∨ (s.turn = .host ∧ ∃ x, s.sout = x :: t.sout) ∨
      (s.turn = .core ∧ s.fsm = .commit ∧ t.sout = s.sout ++ s.work.outv.items.toSout)) ∧
    (t.bout = s.bout ∨ (s.turn = .host ∧ ∃ x, s.bout = x :: t.bout) ∨
      (s.turn = .core ∧ s.fsm = .commit ∧ t.bout = s.bout ++ s.work.outv.items.toBout))

/-- R129, R87, R35: what a `COMPUTE` step does. While `DPEND = 1` there is no step. A command whose checksum is not needed
or is there gets `OUTV` from its pure function and goes to `COMMIT`; otherwise the strong variant issues `Digest(q)` and the
fast one computes the checksum; `CFG`, `ARG`, `STATUS`, the results and the FIFOs stay as they are. `ENCODE` and `CHECKSUM`
need the checksum of the whole payload, `PACK` and `UNPACK` none, `DECODE` that of the recovered bytes only when it reaches
step 10. And a digest request is issued by no other step. (That the fast checksum and the pure function take a step each,
with `chkDone` between them, is log 10.) -/
def Obligations.ComputeDecidesOrAsksForTheDigest : Prop :=
  (∀ s : State, s.fsm = .compute →
    let need := s.work.toCheck s.lop s.lcfg
    (s.dpend = true → s.coreStep = s) ∧
    (s.dpend = false → (need = none ∨ s.work.chkDone = true) →
      s.coreStep =
        { s with
          fsm := .commit
          work := { s.work with outv := s.work.outcome s.lop s.lcfg s.larg s.work.chk } }) ∧
    ∀ q, s.dpend = false → need = some q → s.work.chkDone = false →
      (s.lcfg.getLsbD 0 = true → s.coreStep = { s with dpend := true, dreq := q }) ∧
      (s.lcfg.getLsbD 0 = false →
        s.coreStep = { s with work := { s.work with chk := (crc16 q).setWidth 17, chkDone := true } })) ∧
  (∀ (w : Work) (lcfg : Word32),
    (∀ c : Cmd, c = .encode ∨ c = .checksum →
      w.toCheck c lcfg = if w.byteOver = 0 then some w.inb else none) ∧
    w.toCheck .pack lcfg = none ∧ w.toCheck .unpack lcfg = none ∧
    ∀ q, w.toCheck .decode lcfg = some q ↔ ∃ chk n, w.parse lcfg = .packet q chk n) ∧
  ∀ s t : State, step s = .next t → s.dpend = false → t.dpend = true →
    s.turn = .core ∧ s.fsm = .compute ∧ s.lcfg.getLsbD 0 = true ∧ s.work.chkDone = false ∧
    s.work.toCheck s.lop s.lcfg = some t.dreq ∧ t.fsm = .compute

/-- R35, R141, R38: while `DPEND = 1` the command stays in `COMPUTE`; only the provider's answer or a reset ends the wait,
and neither the request's bytes, the working registers nor the latched `LOP`, `LCFG` and `LARG` change. -/
def Obligations.WaitingForTheDigest : Prop :=
  ∀ s t : State, s.Inv → s.dpend = true → s.turn ≠ .digest → s.turn ≠ .reset → step s = .next t →
    t.dpend = true ∧ t.dreq = s.dreq ∧ t.fsm = .compute ∧ t.work = s.work ∧ t.lop = s.lop ∧ t.lcfg = s.lcfg ∧
      t.larg = s.larg

/-! ## The core's steps -/

/-- R128 for `BIN` commands: one item is popped. A data byte is kept while `INB` holds fewer than `P` bytes and is only
counted otherwise; the `END` item leads to `COMPUTE`; from an empty FIFO there is no step. -/
def Obligations.CollectFromBin : Prop :=
  ∀ s : State, s.fsm = .collect → (s.lop = .encode ∨ s.lop = .checksum ∨ s.lop = .pack) →
    (s.bin = [] → s.coreStep = s) ∧
    (∀ x rest, s.bin = x :: rest → x.isEnd = true → s.coreStep = { s with bin := rest, fsm := .compute }) ∧
    (∀ x rest, s.bin = x :: rest → x.isEnd = false → s.work.inb.length < Config.maxPayload →
      s.coreStep = { s with bin := rest, work := { s.work with inb := s.work.inb ++ [x.byte] } }) ∧
    (∀ x rest, s.bin = x :: rest → x.isEnd = false → Config.maxPayload ≤ s.work.inb.length →
      s.coreStep = { s with bin := rest, work := { s.work with byteOver := s.work.byteOver + 1 } })

/-- R95, R107, R128, R156 for `TIN` commands. The `END` item leads to `COMPUTE`, also as the first item, which makes the
input empty. A token after the first: a valid one shifts into the accumulator while fewer than `S` have, and is only counted
otherwise; the first absent one stops the unpacker; later ones are discarded. -/
def Obligations.CollectFeedsTheUnpacker : Prop :=
  ∀ (s : State) (t : Token) (rest : List Token), s.fsm = .collect → (s.lop = .decode ∨ s.lop = .unpack) →
    s.tin = t :: rest →
    (t.isEnd = true → s.coreStep = { s with tin := rest, fsm := .compute }) ∧
    (t.isEnd = false → ∀ t₀, s.work.firstTok = some t₀ →
      (s.work.stopped = true → s.coreStep = { s with tin := rest }) ∧
      (s.work.stopped = false → t.valid = false →
        s.coreStep = { s with tin := rest, work := { s.work with stopped := true } }) ∧
      (s.work.stopped = false → t.valid = true → s.work.nsym < Config.maxSymbols →
        s.coreStep =
          { s with
            tin := rest
            work :=
              { s.work with
                acc := s.work.acc * 512 + t.value.toNat, nbits := s.work.nbits + 9,
                nsym := s.work.nsym + 1 } }) ∧
      (s.work.stopped = false → t.valid = true → Config.maxSymbols ≤ s.work.nsym →
        s.coreStep = { s with tin := rest, work := { s.work with symOver := s.work.symOver + 1 } }))

/-- R128: the first token is kept, and "for `DECODE` with `LCFG.PFX = 1` the first token is the prefix and is not fed to
the unpacker"; an empty `TIN` gives no step. -/
def Obligations.CollectKeepsTheFirstToken : Prop :=
  ∀ s : State, s.fsm = .collect → (s.lop = .decode ∨ s.lop = .unpack) →
    (s.tin = [] → s.coreStep = s) ∧
    ∀ (t : Token) (rest : List Token), s.tin = t :: rest → t.isEnd = false → s.work.firstTok = none →
      (s.lop = .decode → s.lcfg.getLsbD 1 = true →
        s.coreStep = { s with tin := rest, work := { s.work with firstTok := some t } }) ∧
      ((s.lop = .unpack ∨ s.lcfg.getLsbD 1 = false) →
        s.coreStep = { s with tin := rest, work := ({ s.work with firstTok := some t } : Work).feed t })

/-- R130, R51: the commit is one atomic step. When the items fit, they are appended in order and every result is written
with them; when they do not, the core waits and nothing changes. What is left in the working registers is open (R19,
log 8), hence the `∃ w`. R134: the numbers that `ERR` takes. -/
def Obligations.CommitIsAtomicOrWaits : Prop :=
  (ErrKind.none.code = 0 ∧ ErrKind.emptyString.code = 1 ∧ ErrKind.invalidPrefix.code = 2 ∧
    ErrKind.shortPacket.code = 3 ∧ ErrKind.invalidPadding.code = 4 ∧ ErrKind.checksumMismatch.code = 5 ∧
    ErrKind.illegalCommand.code = 6 ∧ ErrKind.badOperand.code = 7 ∧ ErrKind.capacity.code = 8) ∧
  ∀ s : State, s.fsm = .commit → let o := s.work.outv
    (s.sout.length + o.items.toSout.length ≤ Config.capSout →
      s.bout.length + o.items.toBout.length ≤ Config.capBout →
      ∃ w, s.coreStep =
        { s with
          sout := s.sout ++ o.items.toSout, bout := s.bout ++ o.items.toBout,
          status :=
            { s.status with err := o.err.code, shortsub := o.shortsub, done := true, busy := false },
          result := o.result, consumed := o.consumed, outlen := o.outlen, fsm := .idle, work := w }) ∧
    (∀ l, o.items = .syms l → Config.capSout < s.sout.length + l.length → s.coreStep = s) ∧
    (∀ l, o.items = .bytes l → Config.capBout < s.bout.length + l.length → s.coreStep = s)

/-- R6 (`CAP_SOUT`, `CAP_BOUT`), R130, D8: the output of any one command fits into empty output FIFOs, so its commit is
enabled there. -/
def Obligations.CommitIsEnabledOnEmptyFifos : Prop :=
  ∀ s : State, s.Inv → s.fsm = .commit → s.sout = [] → s.bout = [] → s.coreStep.fsm = .idle

/-- R141, R84: the provider's answer clears `DPEND` and gives the core the low 17 bits of the digest of the requested
bytes; nothing else changes. (That `CHK` is then marked as there is log 10.) -/
def Obligations.DigestAnswerGivesTheChecksum : Prop :=
  ∀ s : State, s.dpend = true →
    s.digestAnswer =
      { s with
        dpend := false, dreq := []
        work := { s.work with chk := checksum true s.dreq, chkDone := true } }

/-- R41: the reset values the spec gives. -/
def Obligations.ResetValues : Prop :=
  State.reset.cfg = 0 ∧ State.reset.arg = 0 ∧ State.reset.status.word = 0 ∧ State.reset.result = 0 ∧
  State.reset.consumed = 0 ∧ State.reset.outlen = 0 ∧ State.reset.bin = [] ∧ State.reset.tin = [] ∧
  State.reset.sout = [] ∧ State.reset.bout = [] ∧ State.reset.fsm = .idle ∧ State.reset.dpend = false

/-- R148, R149, R35: a reset at any step puts every register of R41 at its reset value and commits nothing; the answer to
a request that was outstanding becomes late; and a late answer, when it comes, is discarded: it changes nothing of the
block. (That the host's queue, its last reply and the schedule stay is log 18.) -/
def Obligations.ResetAbortsAndLateAnswersAreDiscarded : Prop :=
  ∀ s t : State, step s = .next t →
    (s.turn = .reset →
      t.cfg = 0 ∧ t.arg = 0 ∧ t.status.word = 0 ∧ t.result = 0 ∧ t.consumed = 0 ∧ t.outlen = 0 ∧
      t.bin = [] ∧ t.tin = [] ∧ t.sout = [] ∧ t.bout = [] ∧ t.fsm = .idle ∧ t.dpend = false ∧
      t.late = (if s.dpend then s.late ++ [s.dreq] else s.late) ∧
      t.hostq = s.hostq ∧ t.reply = s.reply) ∧
    (s.turn = .lateDigest →
      t = { s with late := s.late.tail, sched := s.sched.tail, tick := s.tick + 1 })

/-! ## The checksum generator -/

/-- R82: the check value of CRC-16/XMODEM. -/
def Obligations.CrcCheckValue : Prop :=
  crc16 [0x31, 0x32, 0x33, 0x34, 0x35, 0x36, 0x37, 0x38, 0x39] = 0x31C3

/-- R88: leading zero bytes do not change the fast checksum. -/
def Obligations.CrcIgnoresLeadingZeros : Prop :=
  crc16 [] = 0 ∧ (∀ k, crc16 (List.replicate k 0) = 0) ∧
  ∀ k p, crc16 (List.replicate k 0 ++ p) = crc16 p

/-- R84: the strong checksum is the low 17 bits of the digest read as a big-endian integer, in terms of its last bytes. -/
def Obligations.TruncationOfTheDigest : Prop :=
  ∀ d : Vector Byte 32,
    (trunc17 d).toNat = intBe d.toList &&& 0x1FFFF ∧
    (trunc17 d).toNat = ((d[29].toNat &&& 1) <<< 16) ||| (d[30].toNat <<< 8) ||| d[31].toNat

/-- R89, R85: `CHECKSUM` reports the latched variant's checksum, zero-extended, pushes nothing, and fails with `CAPACITY`
beyond `P` bytes. -/
def Obligations.ChecksumCommandResult : Prop :=
  ∀ (lcfg : Word32) (p : List Byte),
    (p.length ≤ Config.maxPayload →
      (checksumCmd lcfg p).err = .none ∧
      (checksumCmd lcfg p).result.toNat =
        (if lcfg.getLsbD 0 then (trunc17 (Config.digest p)).toNat else (crc16 p).toNat) ∧
      (checksumCmd lcfg p).consumed = 0 ∧ (checksumCmd lcfg p).outlen = 0 ∧
      (checksumCmd lcfg p).items = .none ∧ (checksumCmd lcfg p).shortsub = false) ∧
    (Config.maxPayload < p.length → checksumCmd lcfg p = OutV.fail .capacity false)

/-! ## The Bit Packer and the Bit Unpacker -/

/-- R92: the laws of `pack`. -/
def Obligations.PackLaws : Prop :=
  (∀ v L, (pack v L).length = L / 9) ∧ (∀ v, pack v 0 = []) ∧
  (∀ v L, L % 9 = 0 → v < 2 ^ L → pack v (L + 9) = 0 :: pack v L) ∧
  ∀ v L, L % 9 = 0 → v < 2 ^ L →
    ((List.range (L / 9)).map fun i => ((pack v L).getD i 0).toNat <<< (L - 9 * (i + 1))).sum = v

/-- R93, R136: `PACK` makes its four checks in the order written and reports the first that fails. -/
def Obligations.PackCommandResult : Prop :=
  ∀ (larg : Word32) (q : List Byte),
    packCmd larg q =
      if Config.maxPayload < q.length then OutV.fail .capacity false
      else if larg.toNat % 9 ≠ 0 then OutV.fail .badOperand false
      else if 2 ^ larg.toNat ≤ intBe q then OutV.fail .badOperand false
      else if Config.maxSymbols < larg.toNat / 9 then OutV.fail .capacity false
      else
        { err := .none, shortsub := false, result := 0, consumed := 0,
          outlen := BitVec.ofNat 32 (larg.toNat / 9)
          items := .syms ((pack (intBe q) larg.toNat).map fun v => { value := v, sent := false }) }

/-- R97: the unpacker's invariants; what follows the first absent token is never read. -/
def Obligations.UnpackInvariants : Prop :=
  ∀ toks : List Token,
    (unpack toks).nbits = 9 * (unpack toks).nsym ∧ (unpack toks).acc < 2 ^ (unpack toks).nbits ∧
    (unpack toks).nsym = (toks.takeWhile fun t => t.valid).length ∧
    unpack toks = unpack (toks.takeWhile fun t => t.valid)

/-- R98: `unpack` is the inverse of `pack`, whatever follows the absent token. -/
def Obligations.UnpackInvertsPack : Prop :=
  ∀ (v L : Nat) (toks : List Token) (absent : Token) (rest : List Token), L % 9 = 0 → v < 2 ^ L →
    List.Forall₂ (fun x t => t.valid = true ∧ t.value = x) (pack v L) toks → absent.valid = false →
    unpack (toks ++ absent :: rest) = { acc := v, nbits := L, nsym := L / 9 }

/-- R99: `UNPACK` returns the accumulator as `ceil(nbits / 8)` big-endian bytes with the counts, and fails with
`CAPACITY` when the first `S + 1` tokens are all valid. -/
def Obligations.UnpackCommandResult : Prop :=
  ∀ toks : List Token, let n := (toks.takeWhile fun t => t.valid).length
    (Config.maxSymbols < n → unpackCmd toks = OutV.fail .capacity false) ∧
    (n ≤ Config.maxSymbols →
      ∃ q : List Byte, q.length = (9 * n + 7) / 8 ∧ intBe q = (unpack toks).acc ∧
        (unpackCmd toks).items = .bytes q ∧ (unpackCmd toks).err = .none ∧
        (unpackCmd toks).shortsub = false ∧ (unpackCmd toks).result.toNat = 9 * n ∧
        (unpackCmd toks).consumed.toNat = n ∧ (unpackCmd toks).outlen.toNat = (9 * n + 7) / 8)

/-! ## The Packet Codec -/

/-- R61: the packet's fields at their positions, for every payload and both variants. -/
def Obligations.PacketFields : Prop :=
  ∀ (strong : Bool) (p : List Byte),
    let C := if strong then 17 else 16
    let n := p.length
    let pad := (9 - (1 + C + 8 * n) % 9) % 9
    let L := 1 + C + 8 * n + pad
    let v := packetBits strong (checksum strong p) p
    L % 9 = 0 ∧ totalBits strong p + padding strong p = L ∧ v < 2 ^ L ∧
    v >>> (L - 1) = (if pad = 8 then 1 else 0) ∧
    (v >>> (L - 1 - C)) % 2 ^ C = (checksum strong p).toNat ∧
    (v >>> pad) % 2 ^ (8 * n) = intBe p ∧
    (∀ i b, p[i]? = some b → (v >>> (L - 9 - C - 8 * i)) % 2 ^ 8 = b.toNat) ∧
    v % 2 ^ pad = 0

/-- R62, R63: the padding closed forms, when the parity bit is set, and the packet's length in symbols. -/
def Obligations.PaddingAndLengthClosedForms : Prop :=
  ∀ p : List Byte,
    padding false p = (p.length + 1) % 9 ∧ padding true p = p.length % 9 ∧
    (parityBit false p = 1 ↔ p.length % 9 = 7) ∧ (parityBit true p = 1 ↔ p.length % 9 = 8) ∧
    ∀ (strong : Bool),
      (totalBits strong p + padding strong p) / 9 = (totalBits strong p + 8) / 9 ∧
      (p = [] → (totalBits strong p + padding strong p) / 9 = 2) ∧
      ∀ q : List Byte, q.length = p.length + 9 →
        (totalBits strong q + padding strong q) / 9 = (totalBits strong p + padding strong p) / 9 + 8

/-- R103, R64: the length of an encoding, sentinel included, and its bound for a payload within `P`. -/
def Obligations.EncodedLength : Prop :=
  ∀ (strong pfxOn : Bool) (p : List Byte),
    let C := if strong then 17 else 16
    (packetEncode strong pfxOn p).length = (1 + C + 8 * p.length + 8) / 9 + (if pfxOn then 1 else 0) ∧
    (p.length ≤ Config.maxPayload → (packetEncode strong pfxOn p).length ≤ Config.maxSymbols + 1)

/-- R105, R135: `ENCODE` reports the checksum and the item count and fails only with `CAPACITY`, beyond `P` bytes. -/
def Obligations.EncodeCommandResult : Prop :=
  ∀ (lcfg : Word32) (p : List Byte),
    (Config.maxPayload < p.length → encodeCmd lcfg p = OutV.fail .capacity false) ∧
    (p.length ≤ Config.maxPayload →
      let out := packetEncode (lcfg.getLsbD 0) (lcfg.getLsbD 1) p
      (encodeCmd lcfg p).err = .none ∧ (encodeCmd lcfg p).shortsub = false ∧
      (encodeCmd lcfg p).result.toNat = (checksum (lcfg.getLsbD 0) p).toNat ∧
      (encodeCmd lcfg p).consumed = 0 ∧ (encodeCmd lcfg p).outlen.toNat = out.length ∧
      (encodeCmd lcfg p).items = .syms out)

/-- R119: the round trip, for every payload within `P`, every configuration, every faithful reading of the symbols and
every `rest` at which the unpacker stops. -/
def Obligations.DecodeInvertsEncode : Prop :=
  ∀ (lcfg : Word32) (p : List Byte) (toks rest : List Token), p.length ≤ Config.maxPayload →
    List.Forall₂ Faithful (packetEncode (csel lcfg) (pfx lcfg) p) toks → StopsUnpacker rest →
    packetDecode lcfg (toks ++ rest) =
      .ok p (packetEncode (csel lcfg) (pfx lcfg) p).length (checksum (csel lcfg) p)

/-- R107, R108, R110, R136: the first three checks of decode and their order: an empty input, the prefix, the capacity. -/
def Obligations.DecodeFirstChecks : Prop :=
  ∀ lcfg : Word32,
    (lcfg.getLsbD 1 = false → lcfg.getLsbD 2 = true → packetDecode lcfg [] = .ok [] 0 0) ∧
    (lcfg.getLsbD 1 = true ∨ lcfg.getLsbD 2 = false → packetDecode lcfg [] = .err .emptyString false) ∧
    (∀ t rest, lcfg.getLsbD 1 = true → t.sent = false →
      packetDecode lcfg (t :: rest) = .err .invalidPrefix false) ∧
    (∀ t rest, lcfg.getLsbD 1 = true → t.sent = true →
      Config.maxSymbols < (rest.takeWhile fun t => t.valid).length →
      packetDecode lcfg (t :: rest) = .err .capacity false) ∧
    (∀ toks, lcfg.getLsbD 1 = false → Config.maxSymbols < (toks.takeWhile fun t => t.valid).length →
      packetDecode lcfg toks = .err .capacity false)

/-- R111: after the prefix, no valid token is `SHORT_PACKET` with `SHORTSUB = 1`, one is `SHORT_PACKET` with
`SHORTSUB = 0`, and two or more are not `SHORT_PACKET`. -/
def Obligations.DecodeShortPacket : Prop :=
  ∀ (lcfg : Word32) (t : Token) (rest : List Token), (lcfg.getLsbD 1 = true → t.sent = true) →
    let n := ((if lcfg.getLsbD 1 then rest else t :: rest).takeWhile fun t => t.valid).length
    (n = 0 → packetDecode lcfg (t :: rest) = .err .shortPacket true) ∧
    (n = 1 → packetDecode lcfg (t :: rest) = .err .shortPacket false) ∧
    (2 ≤ n → ∀ sub, packetDecode lcfg (t :: rest) ≠ .err .shortPacket sub)

/-- R114: `INVALID_PADDING` exactly for two symbols under the strong variant of which the first is 0x100 or more; never
under the fast variant. -/
def Obligations.InvalidPaddingExactly : Prop :=
  ∀ (strong : Bool) (start : Nat) (toks : List Token),
    parseBits strong start (unpack toks) = .error .invalidPadding false ↔
      strong = true ∧ (unpack toks).nsym = 2 ∧ 0x100 ≤ (unpack toks).acc >>> 9

/-- R116, R117: a packet that reaches step 10 succeeds exactly when the recomputed checksum is the retrieved one; it then
returns the recovered bytes, and the tokens counted as consumed are the prefix and the valid tokens after it. -/
def Obligations.DecodeVerifiesTheChecksum : Prop :=
  ∀ (lcfg : Word32) (toks : List Token) (bytes : List Byte) (retrieved : Chk) (consumed : Nat),
    parseTokens lcfg toks = .packet bytes retrieved consumed →
    (checksum (csel lcfg) bytes = retrieved → packetDecode lcfg toks = .ok bytes consumed retrieved) ∧
    (checksum (csel lcfg) bytes ≠ retrieved →
      packetDecode lcfg toks = .err .checksumMismatch false) ∧
    consumed =
      (if lcfg.getLsbD 1 then 1 else 0) +
        ((if lcfg.getLsbD 1 then toks.drop 1 else toks).takeWhile fun t => t.valid).length

/-- R118, 90_conflicts.md C2, C3, C4: what decode does not check. (a) Accumulators that differ only in the padding bits,
(b) or, when the residue is not 0, only in the parity bit, are the same packet; (d) the spec's example of an encoding cut
short that is another encoding. -/
def Obligations.DecodeDoesNotCheck : Prop :=
  (∀ (strong : Bool) (start : Nat) (u v : Unpacked), u.nbits = v.nbits → u.nsym = v.nsym →
    paddingBits strong u ≤ payloadBitsPadded strong u →
    u.acc >>> paddingBits strong u = v.acc >>> paddingBits strong u →
    parseBits strong start u = parseBits strong start v) ∧
  (∀ (strong : Bool) (start : Nat) (u v : Unpacked), u.nbits = v.nbits → u.nsym = v.nsym →
    payloadBitsPadded strong u % 8 ≠ 0 → u.acc % 2 ^ (u.nbits - 1) = v.acc % 2 ^ (u.nbits - 1) →
    u.acc < 2 ^ u.nbits → v.acc < 2 ^ v.nbits → parseBits strong start u = parseBits strong start v) ∧
  let zero : Token := { value := 0, valid := true, sent := false, isEnd := false }
  packetEncode false false [0, 0] = List.replicate 4 { value := 0, sent := false } ∧
  packetDecode 0 (List.replicate 3 zero) = .ok [0] 3 0

/-- R106 step 9, R113, R115: the recovered bytes are as many as the payload bits allow, and they are the payload integer:
no payload bit is dropped. -/
def Obligations.RecoveredBytesAreThePayload : Prop :=
  ∀ (strong : Bool) (start : Nat) (toks : List Token) (bytes : List Byte) (retrieved : Chk) (n : Nat),
    let u := unpack toks
    let C := if strong then 17 else 16
    parseBits strong start u = .packet bytes retrieved n →
    1 + C + 8 * bytes.length + paddingBits strong u = u.nbits ∧
    u.acc / 2 ^ (u.nbits - 1 - C) % 2 ^ C = retrieved.toNat ∧
    u.acc / 2 ^ paddingBits strong u % 2 ^ (8 * bytes.length) = intBe bytes

/-- R120: `DECODE` commits the bytes with their count and the retrieved checksum on success, and only the error code on
failure. -/
def Obligations.DecodeCommandResult : Prop :=
  ∀ (lcfg : Word32) (toks : List Token),
    (∀ bytes consumed retrieved, packetDecode lcfg toks = .ok bytes consumed retrieved →
      (decodeCmd lcfg toks).err = .none ∧ (decodeCmd lcfg toks).shortsub = false ∧
      (decodeCmd lcfg toks).result.toNat = retrieved.toNat ∧
      (decodeCmd lcfg toks).consumed.toNat = consumed ∧
      (decodeCmd lcfg toks).outlen.toNat = bytes.length ∧ (decodeCmd lcfg toks).items = .bytes bytes) ∧
    ∀ kind sub, packetDecode lcfg toks = .err kind sub →
      decodeCmd lcfg toks =
        { err := kind, shortsub := sub, result := 0, consumed := 0, outlen := 0, items := .none } ∧
      (sub = true → kind = .shortPacket)

/-! ## Commands from start to commit -/

/-- R128, R129, R131: the working registers that `COLLECT` fills give the same result as the command's pure function on
the whole input, also beyond the bounds `P` and `S`. -/
def Obligations.CollectedRegistersGiveThePureFunction : Prop :=
  (∀ (c : Cmd) (lcfg larg : Word32) (p : List Byte), c.inPort = .bin →
    (Work.cleared.collectBytes p).pureOutcome c lcfg larg = binCommand c lcfg larg p) ∧
  ∀ (c : Cmd) (lcfg larg : Word32) (toks : List Token), c.inPort = .tin →
    (Work.cleared.collectTokens c lcfg toks).pureOutcome c lcfg larg = tinCommand c lcfg toks

/-- R105, R89, R93, R127 to R131: an accepted `ENCODE`, `CHECKSUM` or `PACK` whose input and `END` are in `BIN` runs to
its commit and commits exactly what its pure function says of the latched configuration and those bytes; it pops the
input through the `END` and nothing else, and leaves `TIN`, `CFG` and `ARG` alone. The order of the turns is the
model's `sched` (log 1), and so is their number, `p.length + 6`, which R129 and R160 leave open (log 10); for other orders see `ScheduleDoesNotChangeTheResult`. -/
def Obligations.BinCommandsCommitTheirPureFunction : Prop :=
  ∀ (s : State) (i : Instr) (c : Cmd) (p : List Byte) (e : BinItem) (rest : List BinItem)
    (ops : List HostWord) (more : List Turn),
    (i = .encode ∧ c = .encode ∨ i = .checksum ∧ c = .checksum ∨ i = .pack ∧ c = .pack) →
    s.fsm = .idle → s.dpend = false → s.hostq = encode i :: ops →
    s.bin = (p.map fun b => { byte := b, isEnd := false }) ++ e :: rest → e.isEnd = true →
    s.sched = .host :: commandTurns p.length ++ more →
    s.hasRoom (binCommand c s.cfg s.arg p).items = true →
    ∃ t : State, Host.Core.run Sys2Proof.core (p.length + 6) s = .next t ∧
      CommittedTo { s with status := s.status.accepted } t (binCommand c s.cfg s.arg p) ∧
      t.bin = rest ∧ t.tin = s.tin ∧ t.cfg = s.cfg ∧ t.arg = s.arg ∧ t.dpend = false ∧ t.hostq = ops ∧
      t.reply = s.reply ∧ t.sched = more

/-- R120, R99, R127 to R131: the same for `DECODE` and `UNPACK`, whose input is in `TIN`; every token before the `END`
is popped, also those after the first absent one. The order of the turns and their number, `toks.length + 6`, are the
model's (logs 1, 10). -/
def Obligations.TinCommandsCommitTheirPureFunction : Prop :=
  ∀ (s : State) (i : Instr) (c : Cmd) (toks : List Token) (e : Token) (rest : List Token)
    (ops : List HostWord) (more : List Turn),
    (i = .decode ∧ c = .decode ∨ i = .unpack ∧ c = .unpack) →
    s.fsm = .idle → s.dpend = false → s.hostq = encode i :: ops →
    s.tin = toks ++ e :: rest → (∀ t ∈ toks, t.isEnd = false) → e.isEnd = true →
    s.sched = .host :: commandTurns toks.length ++ more →
    s.hasRoom (tinCommand c s.cfg toks).items = true →
    ∃ t : State, Host.Core.run Sys2Proof.core (toks.length + 6) s = .next t ∧
      CommittedTo { s with status := s.status.accepted } t (tinCommand c s.cfg toks) ∧
      t.tin = rest ∧ t.bin = s.bin ∧ t.cfg = s.cfg ∧ t.arg = s.arg ∧ t.dpend = false ∧ t.hostq = ops ∧
      t.reply = s.reply ∧ t.sched = more

/-- R77 a, R127, R134 code 6, R56: an illegal command word written in `IDLE` completes at the core's next turn with
`ERR = 6`, pops no FIFO item and appends none. -/
def Obligations.IllegalCommandCommitsErrorSix : Prop :=
  ∀ (s : State) (data : Word32) (ops : List HostWord) (more : List Turn), 5 ≤ data.toNat →
    s.fsm = .idle → s.hostq = encode (.cmdIllegal data) :: ops → s.sched = .host :: .core :: more →
    ∃ t : State, Host.Core.run Sys2Proof.core 2 s = .next t ∧ t.fsm = .idle ∧
      t.status = { busy := false, done := true, ovr := false, err := 6, shortsub := false } ∧
      t.result = 0 ∧ t.consumed = 0 ∧ t.outlen = 0 ∧ t.bin = s.bin ∧ t.tin = s.tin ∧ t.sout = s.sout ∧
      t.bout = s.bout ∧ t.cfg = s.cfg ∧ t.arg = s.arg ∧ t.hostq = ops

/-- R131, R39, R8: "the sequencing of rules R127 to R130 adds waiting, never a different value". Whatever agent moves
(other than a reset) and whatever the host does meanwhile, a command whose whole input is in its FIFO keeps what it will
commit, until the step that commits exactly that. -/
def Obligations.ScheduleDoesNotChangeTheResult : Prop :=
  ∀ (s t : State) (o : OutV), s.Inv → s.expected = some o → s.turn ≠ .reset → step s = .next t →
    t.expected = some o ∨ (s.turn = .core ∧ s.fsm = .commit ∧ CommittedTo s t o)

/-! ## Invariants and non-interference -/

/-- R41: the invariant of a core instance holds right after reset. -/
def Obligations.InvariantHoldsAtReset : Prop :=
  State.reset.Inv

/-- R23, R28, R31, R34, R35, R37, R97, R128, R134: every step keeps the invariant, from every state that has it. -/
def Obligations.EveryStepKeepsTheInvariant : Prop :=
  ∀ s t : State, s.Inv → step s = .next t → t.Inv

/-- R19, R20, R39: "no host-visible value depends on a working register's value at reset or left by an earlier command".
Two states that agree on all that R20 lets matter make the same step: both go on, and agree again, or both refuse the
same host word. -/
def Obligations.LeftOverRegistersDoNotMatter : Prop :=
  ∀ a b : State, a.visible = b.visible →
    (∀ s t : State, step a = .next s → step b = .next t → s.visible = t.visible) ∧
    ((∃ s, step a = .next s) ↔ ∃ t, step b = .next t) ∧
    ∀ why, step a = .refused why → step b = .refused why

/-! ## Liveness -/

/-- R160, R129: "weak fairness of the core's enabled steps", and what follows from it, "a command stays `BUSY` for a finite,
unspecified number of steps after its input is complete, except while it waits for the digest provider (unbounded) or for
room in its output FIFO (until the host pops)". From every state the core's turn comes again. A command whose whole input
is in its FIFO comes to `COMPUTE`; one in `COMPUTE` comes to `COMMIT`, or, if it needs the strong checksum and does not have
it, to waiting for the provider; one in `COMMIT` whose items fit comes to `IDLE`. `IDLE` among the goals of the first two
stands for a reset on the way (R149). The host's pending words spell host operations; the order of turns is the model's
(logs 1, 16). -/
def Obligations.BusyIsFiniteUnlessWaiting : Prop :=
  ∀ s : State, s.HostSpells →
    s.LeadsTo (fun t => t.turn = .core) ∧
    (s.fsm = .collect → s.expected.isSome = true → s.LeadsTo fun t => t.fsm = .compute ∨ t.fsm = .idle) ∧
    (s.fsm = .compute → s.dpend = false →
      s.LeadsTo fun t =>
        t.fsm = .commit ∨ t.fsm = .idle ∨
          (t.fsm = .compute ∧ t.dpend = true ∧ s.lcfg.getLsbD 0 = true ∧ s.work.chkDone = false)) ∧
    (s.fsm = .commit → s.hasRoom s.work.outv.items = true → s.LeadsTo fun t => t.fsm = .idle)
end

