-- ==== Sys2Proof/Laws/Bytes.lean ====
section
/-! SUPPORT. The small lemmas of byte strings, symbol groups and the unpacker's accumulator. -/

namespace Sys2Proof.Machine

@[simp] theorem intBe_nil : intBe [] = 0 := rfl

theorem intBe_append (p : List Byte) (b : Byte) : intBe (p ++ [b]) = intBe p * 256 + b.toNat := by
  simp [intBe]

theorem intBe_lt (p : List Byte) : intBe p < 2 ^ (8 * p.length) := by
  induction p using List.reverseRecOn with
  | nil => simp
  | append_singleton p b ih =>
    have hb : b.toNat < 256 := b.isLt
    rw [intBe_append, List.length_append, List.length_singleton, Nat.mul_add, Nat.pow_add]
    omega

@[simp] theorem beBytes_length (v k : Nat) : (beBytes v k).length = k := by simp [beBytes]

/-- The last byte is the low one; the others are those of what is left. -/
theorem beBytes_succ (v k : Nat) : beBytes v (k + 1) = beBytes (v >>> 8) k ++ [BitVec.ofNat 8 v] := by
  simp only [beBytes, List.range_succ, List.map_append, List.map_cons, List.map_nil]
  congr 1
  · apply List.map_congr_left
    intro i hi
    rw [List.mem_range] at hi
    rw [← Nat.shiftRight_add]
    congr 2
    omega
  · simp

theorem intBe_beBytes (v k : Nat) : intBe (beBytes v k) = v % 2 ^ (8 * k) := by
  induction k generalizing v with
  | zero => simp [beBytes, Nat.mod_one]
  | succ k ih =>
    rw [beBytes_succ, intBe_append, ih, BitVec.toNat_ofNat, Nat.shiftRight_eq_div_pow,
      show 8 * (k + 1) = 8 + 8 * k by omega, Nat.pow_add]
    rw [Nat.mod_mul]
    omega

theorem beBytes_intBe (p : List Byte) : beBytes (intBe p) p.length = p := by
  induction p using List.reverseRecOn with
  | nil => rfl
  | append_singleton p b ih =>
    have hb : b.toNat < 256 := b.isLt
    rw [List.length_append, List.length_singleton, beBytes_succ, intBe_append, Nat.shiftRight_eq_div_pow]
    rw [show (intBe p * 256 + b.toNat) / 2 ^ 8 = intBe p by omega, ih]
    congr 2
    apply BitVec.eq_of_toNat_eq
    rw [BitVec.toNat_ofNat]
    omega

@[simp] theorem pack_length (v L : Nat) : (pack v L).length = L / 9 := by simp [pack]

/-- The accumulator as arithmetic: `(acc << 9) | VALUE` is `512 * acc + VALUE` (R94). -/
theorem Unpacked.push_acc (u : Unpacked) (v : SymVal) : (u.push v).acc = u.acc * 512 + v.toNat := by
  have hv : v.toNat < 2 ^ 9 := v.isLt
  simp only [Unpacked.push]
  rw [← Nat.shiftLeft_add_eq_or_of_lt hv, Nat.shiftLeft_eq]

@[simp] theorem Unpacked.push_nbits (u : Unpacked) (v : SymVal) : (u.push v).nbits = u.nbits + 9 := rfl
@[simp] theorem Unpacked.push_nsym (u : Unpacked) (v : SymVal) : (u.push v).nsym = u.nsym + 1 := rfl

@[simp] theorem unpackFrom_nil (u : Unpacked) : unpackFrom u [] = u := rfl
@[simp] theorem unpackFrom_valid (u : Unpacked) (t : Token) (rest : List Token) (h : t.valid = true) :
    unpackFrom u (t :: rest) = unpackFrom (u.push t.value) rest := by simp [unpackFrom, h]
@[simp] theorem unpackFrom_absent (u : Unpacked) (t : Token) (rest : List Token) (h : t.valid = false) :
    unpackFrom u (t :: rest) = u := by simp [unpackFrom, h]

/-- `PACK`'s width check: the value fits in `L` bits exactly when `v < 2^L` (R93). -/
theorem fits_iff (v L : Nat) : v >>> L = 0 ↔ v < 2 ^ L := by
  rw [Nat.shiftRight_eq_div_pow, Nat.div_eq_zero_iff]
  constructor
  · rintro (h | h)
    · exact absurd h (Nat.pos_iff_ne_zero.mp (Nat.two_pow_pos L))
    · exact h
  · exact .inr

theorem padding_lt (strong : Bool) (p : List Byte) : padding strong p < 9 := by
  unfold padding; omega

/-- The packet's length is a multiple of 9 (R48). -/
theorem packet_aligned (strong : Bool) (p : List Byte) : (totalBits strong p + padding strong p) % 9 = 0 := by
  unfold padding; omega

end Sys2Proof.Machine
end

