-- ==== Sys2Proof/Laws/Config.lean ====
section
/-! SUPPORT. The constraints of 00_scope.md R6 hold of the parameters, whatever the opaque numbers are. -/

namespace Sys2Proof.Config

theorem maxSymbols_ge : 231 ≤ maxSymbols := by unfold maxSymbols; omega

theorem maxSymbols_lt : maxSymbols < 2 ^ 28 := by
  have := Nat.mod_lt freeS (show 0 < 2 ^ 28 - 231 by norm_num)
  unfold maxSymbols; omega

theorem maxPayload_ge : 257 ≤ maxPayload := by unfold maxPayload; omega

theorem maxPayload_le : 18 + 8 * maxPayload ≤ 9 * maxSymbols := by
  have hs := maxSymbols_ge
  have hm : 0 < (9 * maxSymbols - 18) / 8 - 256 := by omega
  have hr := Nat.mod_lt freeP hm
  have hp : maxPayload = freeP % ((9 * maxSymbols - 18) / 8 - 256) + 257 := rfl
  generalize freeP % ((9 * maxSymbols - 18) / 8 - 256) = r at hr hp
  omega

/-- "`ceil((18 + 8*P) / 9) <= S`" (R6). -/
theorem maxPayload_symbols : (18 + 8 * maxPayload + 8) / 9 ≤ maxSymbols := by
  have := maxPayload_le; omega

theorem capBin_ge : 1 ≤ capBin := by unfold capBin; omega

theorem capTin_ge : 1 ≤ capTin := by unfold capTin; omega

theorem capSout_ge : maxSymbols + 1 ≤ capSout := by unfold capSout; omega

theorem capBout_ge : (9 * maxSymbols + 7) / 8 ≤ capBout := by unfold capBout; omega

/-- "`CAP_BOUT >= max(floor((9*S - 17) / 8), ceil(9*S / 8))`" (R6). -/
theorem capBout_max : max ((9 * maxSymbols - 17) / 8) ((9 * maxSymbols + 7) / 8) ≤ capBout := by
  have := capBout_ge; omega

/-! The parameters take every value that R6 allows: for each such value there is an opaque number that gives it. -/

theorem symbols_onto (n : Nat) (h : 231 ≤ n) (h' : n < 2 ^ 28) : ∃ k, k % (2 ^ 28 - 231) + 231 = n :=
  ⟨n - 231, by rw [Nat.mod_eq_of_lt (by omega)]; omega⟩

theorem payload_onto (S n : Nat) (h : 257 ≤ n) (h' : 18 + 8 * n ≤ 9 * S) :
    ∃ k, k % ((9 * S - 18) / 8 - 256) + 257 = n :=
  ⟨n - 257, by rw [Nat.mod_eq_of_lt (by omega)]; omega⟩

end Sys2Proof.Config
end

