-- ==== Sys2Proof/Laws/Encoding.lean ====
section
/-! SUPPORT. The small lemmas of host operation words: reading the fields of a word built from its fields, and an item from
the `DATA` built from it. -/

namespace Sys2Proof

@[simp] theorem hostKind_hostWord (k : BitVec 4) (s : Slot) (d : Word32) : hostKind (hostWord k s d) = k := by
  apply BitVec.eq_of_getLsbD_eq
  intro i hi
  simp only [hostKind, hostWord, BitVec.getLsbD_extractLsb', BitVec.getLsbD_append]
  interval_cases i <;> simp

@[simp] theorem hostReserved_hostWord (k : BitVec 4) (s : Slot) (d : Word32) :
    hostReserved (hostWord k s d) = false := by
  simp only [hostReserved, hostWord, BitVec.getLsbD_append]
  simp

@[simp] theorem hostSlot_hostWord (k : BitVec 4) (s : Slot) (d : Word32) : hostSlot (hostWord k s d) = s := by
  apply BitVec.eq_of_getLsbD_eq
  intro i hi
  simp only [hostSlot, hostWord, BitVec.getLsbD_extractLsb', BitVec.getLsbD_append]
  interval_cases i <;> simp

@[simp] theorem hostData_hostWord (k : BitVec 4) (s : Slot) (d : Word32) : hostData (hostWord k s d) = d := by
  apply BitVec.eq_of_getLsbD_eq
  intro i hi
  have h : i < 32 := hi
  simp only [hostData, hostWord, BitVec.getLsbD_extractLsb', BitVec.getLsbD_append]
  simp [h]

@[simp] theorem BinItem.ofData_toData (x : BinItem) : BinItem.ofData x.toData = x := by
  obtain ⟨b, e⟩ := x
  simp only [BinItem.ofData, BinItem.toData, BinItem.mk.injEq]
  constructor
  · apply BitVec.eq_of_getLsbD_eq
    intro i hi
    simp only [BitVec.getLsbD_extractLsb', BitVec.getLsbD_append]
    simp [hi]
  · simp only [BitVec.getLsbD_append]
    simp

@[simp] theorem Token.ofData_toData (t : Token) : Token.ofData t.toData = t := by
  obtain ⟨v, a, s, e⟩ := t
  simp only [Token.ofData, Token.toData, Token.mk.injEq]
  refine ⟨?_, ?_, ?_, ?_⟩
  · apply BitVec.eq_of_getLsbD_eq
    intro i hi
    simp only [BitVec.getLsbD_extractLsb', BitVec.getLsbD_append]
    simp [hi]
  all_goals simp only [BitVec.getLsbD_append]
  all_goals simp

/-- The bits of a `BIN` item's `DATA` above bit 8 are zero (R73). -/
@[simp] theorem BinItem.toData_unused (x : BinItem) : x.toData.extractLsb' 9 23 = 0 := by
  apply BitVec.eq_of_getLsbD_eq
  intro i hi
  simp only [BinItem.toData, BitVec.getLsbD_extractLsb', BitVec.getLsbD_append]
  have : ¬ 9 + i < 8 := by omega
  have : ¬ 9 + i - 8 < 1 := by omega
  simp [*]

/-- The bits of a `TIN` item's `DATA` above bit 11 are zero (R73). -/
@[simp] theorem Token.toData_unused (t : Token) : t.toData.extractLsb' 12 20 = 0 := by
  apply BitVec.eq_of_getLsbD_eq
  intro i hi
  simp only [Token.toData, BitVec.getLsbD_extractLsb', BitVec.getLsbD_append]
  have : ¬ 12 + i < 9 := by omega
  have : ¬ 12 + i - 9 < 1 := by omega
  have : ¬ 12 + i - 9 - 1 < 1 := by omega
  have : ¬ 12 + i - 9 - 1 - 1 < 1 := by omega
  simp [*]

end Sys2Proof
end

