-- ==== Sys2Proof/Laws/State.lean ====
section
/-! SUPPORT. One lemma for each field of the state under each named update, so that no proof unfolds a record update. -/

namespace Sys2Proof.Machine

variable (s : State)

/-! `State.retire` -/

@[simp] theorem State.retire_cfg : s.retire.cfg = s.cfg := rfl
@[simp] theorem State.retire_arg : s.retire.arg = s.arg := rfl
@[simp] theorem State.retire_status : s.retire.status = s.status := rfl
@[simp] theorem State.retire_result : s.retire.result = s.result := rfl
@[simp] theorem State.retire_consumed : s.retire.consumed = s.consumed := rfl
@[simp] theorem State.retire_outlen : s.retire.outlen = s.outlen := rfl
@[simp] theorem State.retire_bin : s.retire.bin = s.bin := rfl
@[simp] theorem State.retire_tin : s.retire.tin = s.tin := rfl
@[simp] theorem State.retire_sout : s.retire.sout = s.sout := rfl
@[simp] theorem State.retire_bout : s.retire.bout = s.bout := rfl
@[simp] theorem State.retire_fsm : s.retire.fsm = s.fsm := rfl
@[simp] theorem State.retire_lop : s.retire.lop = s.lop := rfl
@[simp] theorem State.retire_lcfg : s.retire.lcfg = s.lcfg := rfl
@[simp] theorem State.retire_larg : s.retire.larg = s.larg := rfl
@[simp] theorem State.retire_dpend : s.retire.dpend = s.dpend := rfl
@[simp] theorem State.retire_work : s.retire.work = s.work := rfl
@[simp] theorem State.retire_dreq : s.retire.dreq = s.dreq := rfl
@[simp] theorem State.retire_late : s.retire.late = s.late := rfl
@[simp] theorem State.retire_hostq : s.retire.hostq = s.hostq.tail := rfl
@[simp] theorem State.retire_reply : s.retire.reply = s.reply := rfl
@[simp] theorem State.retire_sched : s.retire.sched = s.sched := rfl
@[simp] theorem State.retire_tick : s.retire.tick = s.tick := rfl

/-! `State.answer` -/

@[simp] theorem State.answer_cfg (r : Reply) : (s.answer r).cfg = s.cfg := rfl
@[simp] theorem State.answer_arg (r : Reply) : (s.answer r).arg = s.arg := rfl
@[simp] theorem State.answer_status (r : Reply) : (s.answer r).status = s.status := rfl
@[simp] theorem State.answer_result (r : Reply) : (s.answer r).result = s.result := rfl
@[simp] theorem State.answer_consumed (r : Reply) : (s.answer r).consumed = s.consumed := rfl
@[simp] theorem State.answer_outlen (r : Reply) : (s.answer r).outlen = s.outlen := rfl
@[simp] theorem State.answer_bin (r : Reply) : (s.answer r).bin = s.bin := rfl
@[simp] theorem State.answer_tin (r : Reply) : (s.answer r).tin = s.tin := rfl
@[simp] theorem State.answer_sout (r : Reply) : (s.answer r).sout = s.sout := rfl
@[simp] theorem State.answer_bout (r : Reply) : (s.answer r).bout = s.bout := rfl
@[simp] theorem State.answer_fsm (r : Reply) : (s.answer r).fsm = s.fsm := rfl
@[simp] theorem State.answer_lop (r : Reply) : (s.answer r).lop = s.lop := rfl
@[simp] theorem State.answer_lcfg (r : Reply) : (s.answer r).lcfg = s.lcfg := rfl
@[simp] theorem State.answer_larg (r : Reply) : (s.answer r).larg = s.larg := rfl
@[simp] theorem State.answer_dpend (r : Reply) : (s.answer r).dpend = s.dpend := rfl
@[simp] theorem State.answer_work (r : Reply) : (s.answer r).work = s.work := rfl
@[simp] theorem State.answer_dreq (r : Reply) : (s.answer r).dreq = s.dreq := rfl
@[simp] theorem State.answer_late (r : Reply) : (s.answer r).late = s.late := rfl
@[simp] theorem State.answer_hostq (r : Reply) : (s.answer r).hostq = s.hostq := rfl
@[simp] theorem State.answer_reply (r : Reply) : (s.answer r).reply = r := rfl
@[simp] theorem State.answer_sched (r : Reply) : (s.answer r).sched = s.sched := rfl
@[simp] theorem State.answer_tick (r : Reply) : (s.answer r).tick = s.tick := rfl

/-! `State.nextTurn` -/

@[simp] theorem State.nextTurn_cfg : s.nextTurn.cfg = s.cfg := rfl
@[simp] theorem State.nextTurn_arg : s.nextTurn.arg = s.arg := rfl
@[simp] theorem State.nextTurn_status : s.nextTurn.status = s.status := rfl
@[simp] theorem State.nextTurn_result : s.nextTurn.result = s.result := rfl
@[simp] theorem State.nextTurn_consumed : s.nextTurn.consumed = s.consumed := rfl
@[simp] theorem State.nextTurn_outlen : s.nextTurn.outlen = s.outlen := rfl
@[simp] theorem State.nextTurn_bin : s.nextTurn.bin = s.bin := rfl
@[simp] theorem State.nextTurn_tin : s.nextTurn.tin = s.tin := rfl
@[simp] theorem State.nextTurn_sout : s.nextTurn.sout = s.sout := rfl
@[simp] theorem State.nextTurn_bout : s.nextTurn.bout = s.bout := rfl
@[simp] theorem State.nextTurn_fsm : s.nextTurn.fsm = s.fsm := rfl
@[simp] theorem State.nextTurn_lop : s.nextTurn.lop = s.lop := rfl
@[simp] theorem State.nextTurn_lcfg : s.nextTurn.lcfg = s.lcfg := rfl
@[simp] theorem State.nextTurn_larg : s.nextTurn.larg = s.larg := rfl
@[simp] theorem State.nextTurn_dpend : s.nextTurn.dpend = s.dpend := rfl
@[simp] theorem State.nextTurn_work : s.nextTurn.work = s.work := rfl
@[simp] theorem State.nextTurn_dreq : s.nextTurn.dreq = s.dreq := rfl
@[simp] theorem State.nextTurn_late : s.nextTurn.late = s.late := rfl
@[simp] theorem State.nextTurn_hostq : s.nextTurn.hostq = s.hostq := rfl
@[simp] theorem State.nextTurn_reply : s.nextTurn.reply = s.reply := rfl
@[simp] theorem State.nextTurn_sched : s.nextTurn.sched = s.sched.tail := rfl
@[simp] theorem State.nextTurn_tick : s.nextTurn.tick = s.tick + 1 := rfl

/-! `State.placeWord` -/

@[simp] theorem State.placeWord_cfg (w : HostWord) : (s.placeWord w).cfg = s.cfg := rfl
@[simp] theorem State.placeWord_arg (w : HostWord) : (s.placeWord w).arg = s.arg := rfl
@[simp] theorem State.placeWord_status (w : HostWord) : (s.placeWord w).status = s.status := rfl
@[simp] theorem State.placeWord_result (w : HostWord) : (s.placeWord w).result = s.result := rfl
@[simp] theorem State.placeWord_consumed (w : HostWord) : (s.placeWord w).consumed = s.consumed := rfl
@[simp] theorem State.placeWord_outlen (w : HostWord) : (s.placeWord w).outlen = s.outlen := rfl
@[simp] theorem State.placeWord_bin (w : HostWord) : (s.placeWord w).bin = s.bin := rfl
@[simp] theorem State.placeWord_tin (w : HostWord) : (s.placeWord w).tin = s.tin := rfl
@[simp] theorem State.placeWord_sout (w : HostWord) : (s.placeWord w).sout = s.sout := rfl
@[simp] theorem State.placeWord_bout (w : HostWord) : (s.placeWord w).bout = s.bout := rfl
@[simp] theorem State.placeWord_fsm (w : HostWord) : (s.placeWord w).fsm = s.fsm := rfl
@[simp] theorem State.placeWord_lop (w : HostWord) : (s.placeWord w).lop = s.lop := rfl
@[simp] theorem State.placeWord_lcfg (w : HostWord) : (s.placeWord w).lcfg = s.lcfg := rfl
@[simp] theorem State.placeWord_larg (w : HostWord) : (s.placeWord w).larg = s.larg := rfl
@[simp] theorem State.placeWord_dpend (w : HostWord) : (s.placeWord w).dpend = s.dpend := rfl
@[simp] theorem State.placeWord_work (w : HostWord) : (s.placeWord w).work = s.work := rfl
@[simp] theorem State.placeWord_dreq (w : HostWord) : (s.placeWord w).dreq = s.dreq := rfl
@[simp] theorem State.placeWord_late (w : HostWord) : (s.placeWord w).late = s.late := rfl
@[simp] theorem State.placeWord_hostq (w : HostWord) : (s.placeWord w).hostq = w :: s.hostq := rfl
@[simp] theorem State.placeWord_reply (w : HostWord) : (s.placeWord w).reply = s.reply := rfl
@[simp] theorem State.placeWord_sched (w : HostWord) : (s.placeWord w).sched = .host :: s.sched := rfl
@[simp] theorem State.placeWord_tick (w : HostWord) : (s.placeWord w).tick = s.tick := rfl

/-! `State.lateAnswer` -/

@[simp] theorem State.lateAnswer_cfg : s.lateAnswer.cfg = s.cfg := rfl
@[simp] theorem State.lateAnswer_arg : s.lateAnswer.arg = s.arg := rfl
@[simp] theorem State.lateAnswer_status : s.lateAnswer.status = s.status := rfl
@[simp] theorem State.lateAnswer_result : s.lateAnswer.result = s.result := rfl
@[simp] theorem State.lateAnswer_consumed : s.lateAnswer.consumed = s.consumed := rfl
@[simp] theorem State.lateAnswer_outlen : s.lateAnswer.outlen = s.outlen := rfl
@[simp] theorem State.lateAnswer_bin : s.lateAnswer.bin = s.bin := rfl
@[simp] theorem State.lateAnswer_tin : s.lateAnswer.tin = s.tin := rfl
@[simp] theorem State.lateAnswer_sout : s.lateAnswer.sout = s.sout := rfl
@[simp] theorem State.lateAnswer_bout : s.lateAnswer.bout = s.bout := rfl
@[simp] theorem State.lateAnswer_fsm : s.lateAnswer.fsm = s.fsm := rfl
@[simp] theorem State.lateAnswer_lop : s.lateAnswer.lop = s.lop := rfl
@[simp] theorem State.lateAnswer_lcfg : s.lateAnswer.lcfg = s.lcfg := rfl
@[simp] theorem State.lateAnswer_larg : s.lateAnswer.larg = s.larg := rfl
@[simp] theorem State.lateAnswer_dpend : s.lateAnswer.dpend = s.dpend := rfl
@[simp] theorem State.lateAnswer_work : s.lateAnswer.work = s.work := rfl
@[simp] theorem State.lateAnswer_dreq : s.lateAnswer.dreq = s.dreq := rfl
@[simp] theorem State.lateAnswer_late : s.lateAnswer.late = s.late.tail := rfl
@[simp] theorem State.lateAnswer_hostq : s.lateAnswer.hostq = s.hostq := rfl
@[simp] theorem State.lateAnswer_reply : s.lateAnswer.reply = s.reply := rfl
@[simp] theorem State.lateAnswer_sched : s.lateAnswer.sched = s.sched := rfl
@[simp] theorem State.lateAnswer_tick : s.lateAnswer.tick = s.tick := rfl

/-! `State.askDigest` -/

@[simp] theorem State.askDigest_cfg (q : List Byte) : (s.askDigest q).cfg = s.cfg := rfl
@[simp] theorem State.askDigest_arg (q : List Byte) : (s.askDigest q).arg = s.arg := rfl
@[simp] theorem State.askDigest_status (q : List Byte) : (s.askDigest q).status = s.status := rfl
@[simp] theorem State.askDigest_result (q : List Byte) : (s.askDigest q).result = s.result := rfl
@[simp] theorem State.askDigest_consumed (q : List Byte) : (s.askDigest q).consumed = s.consumed := rfl
@[simp] theorem State.askDigest_outlen (q : List Byte) : (s.askDigest q).outlen = s.outlen := rfl
@[simp] theorem State.askDigest_bin (q : List Byte) : (s.askDigest q).bin = s.bin := rfl
@[simp] theorem State.askDigest_tin (q : List Byte) : (s.askDigest q).tin = s.tin := rfl
@[simp] theorem State.askDigest_sout (q : List Byte) : (s.askDigest q).sout = s.sout := rfl
@[simp] theorem State.askDigest_bout (q : List Byte) : (s.askDigest q).bout = s.bout := rfl
@[simp] theorem State.askDigest_fsm (q : List Byte) : (s.askDigest q).fsm = s.fsm := rfl
@[simp] theorem State.askDigest_lop (q : List Byte) : (s.askDigest q).lop = s.lop := rfl
@[simp] theorem State.askDigest_lcfg (q : List Byte) : (s.askDigest q).lcfg = s.lcfg := rfl
@[simp] theorem State.askDigest_larg (q : List Byte) : (s.askDigest q).larg = s.larg := rfl
@[simp] theorem State.askDigest_dpend (q : List Byte) : (s.askDigest q).dpend = true := rfl
@[simp] theorem State.askDigest_work (q : List Byte) : (s.askDigest q).work = s.work := rfl
@[simp] theorem State.askDigest_dreq (q : List Byte) : (s.askDigest q).dreq = q := rfl
@[simp] theorem State.askDigest_late (q : List Byte) : (s.askDigest q).late = s.late := rfl
@[simp] theorem State.askDigest_hostq (q : List Byte) : (s.askDigest q).hostq = s.hostq := rfl
@[simp] theorem State.askDigest_reply (q : List Byte) : (s.askDigest q).reply = s.reply := rfl
@[simp] theorem State.askDigest_sched (q : List Byte) : (s.askDigest q).sched = s.sched := rfl
@[simp] theorem State.askDigest_tick (q : List Byte) : (s.askDigest q).tick = s.tick := rfl

/-! `State.finish` -/

@[simp] theorem State.finish_cfg : s.finish.cfg = s.cfg := rfl
@[simp] theorem State.finish_arg : s.finish.arg = s.arg := rfl
@[simp] theorem State.finish_status : s.finish.status = s.status := rfl
@[simp] theorem State.finish_result : s.finish.result = s.result := rfl
@[simp] theorem State.finish_consumed : s.finish.consumed = s.consumed := rfl
@[simp] theorem State.finish_outlen : s.finish.outlen = s.outlen := rfl
@[simp] theorem State.finish_bin : s.finish.bin = s.bin := rfl
@[simp] theorem State.finish_tin : s.finish.tin = s.tin := rfl
@[simp] theorem State.finish_sout : s.finish.sout = s.sout := rfl
@[simp] theorem State.finish_bout : s.finish.bout = s.bout := rfl
@[simp] theorem State.finish_fsm : s.finish.fsm = .commit := rfl
@[simp] theorem State.finish_lop : s.finish.lop = s.lop := rfl
@[simp] theorem State.finish_lcfg : s.finish.lcfg = s.lcfg := rfl
@[simp] theorem State.finish_larg : s.finish.larg = s.larg := rfl
@[simp] theorem State.finish_dpend : s.finish.dpend = s.dpend := rfl
@[simp] theorem State.finish_work : s.finish.work = { s.work with outv := s.work.outcome s.lop s.lcfg s.larg s.work.chk } := rfl
@[simp] theorem State.finish_dreq : s.finish.dreq = s.dreq := rfl
@[simp] theorem State.finish_late : s.finish.late = s.late := rfl
@[simp] theorem State.finish_hostq : s.finish.hostq = s.hostq := rfl
@[simp] theorem State.finish_reply : s.finish.reply = s.reply := rfl
@[simp] theorem State.finish_sched : s.finish.sched = s.sched := rfl
@[simp] theorem State.finish_tick : s.finish.tick = s.tick := rfl

/-! `State.platformReset` -/

@[simp] theorem State.platformReset_cfg : s.platformReset.cfg = State.reset.cfg := rfl
@[simp] theorem State.platformReset_arg : s.platformReset.arg = State.reset.arg := rfl
@[simp] theorem State.platformReset_status : s.platformReset.status = State.reset.status := rfl
@[simp] theorem State.platformReset_result : s.platformReset.result = State.reset.result := rfl
@[simp] theorem State.platformReset_consumed : s.platformReset.consumed = State.reset.consumed := rfl
@[simp] theorem State.platformReset_outlen : s.platformReset.outlen = State.reset.outlen := rfl
@[simp] theorem State.platformReset_bin : s.platformReset.bin = State.reset.bin := rfl
@[simp] theorem State.platformReset_tin : s.platformReset.tin = State.reset.tin := rfl
@[simp] theorem State.platformReset_sout : s.platformReset.sout = State.reset.sout := rfl
@[simp] theorem State.platformReset_bout : s.platformReset.bout = State.reset.bout := rfl
@[simp] theorem State.platformReset_fsm : s.platformReset.fsm = State.reset.fsm := rfl
@[simp] theorem State.platformReset_lop : s.platformReset.lop = State.reset.lop := rfl
@[simp] theorem State.platformReset_lcfg : s.platformReset.lcfg = State.reset.lcfg := rfl
@[simp] theorem State.platformReset_larg : s.platformReset.larg = State.reset.larg := rfl
@[simp] theorem State.platformReset_dpend : s.platformReset.dpend = State.reset.dpend := rfl
@[simp] theorem State.platformReset_work : s.platformReset.work = State.reset.work := rfl
@[simp] theorem State.platformReset_dreq : s.platformReset.dreq = State.reset.dreq := rfl
@[simp] theorem State.platformReset_late : s.platformReset.late = if s.dpend then s.late ++ [s.dreq] else s.late := rfl
@[simp] theorem State.platformReset_hostq : s.platformReset.hostq = s.hostq := rfl
@[simp] theorem State.platformReset_reply : s.platformReset.reply = s.reply := rfl
@[simp] theorem State.platformReset_sched : s.platformReset.sched = s.sched := rfl
@[simp] theorem State.platformReset_tick : s.platformReset.tick = s.tick := rfl

/-! `Work.setChk` and the writes to `STATUS` -/

@[simp] theorem Work.setChk_inb (w : Work) (c : Chk) : (w.setChk c).inb = w.inb := rfl
@[simp] theorem Work.setChk_byteOver (w : Work) (c : Chk) : (w.setChk c).byteOver = w.byteOver := rfl
@[simp] theorem Work.setChk_acc (w : Work) (c : Chk) : (w.setChk c).acc = w.acc := rfl
@[simp] theorem Work.setChk_nbits (w : Work) (c : Chk) : (w.setChk c).nbits = w.nbits := rfl
@[simp] theorem Work.setChk_nsym (w : Work) (c : Chk) : (w.setChk c).nsym = w.nsym := rfl
@[simp] theorem Work.setChk_stopped (w : Work) (c : Chk) : (w.setChk c).stopped = w.stopped := rfl
@[simp] theorem Work.setChk_firstTok (w : Work) (c : Chk) : (w.setChk c).firstTok = w.firstTok := rfl
@[simp] theorem Work.setChk_symOver (w : Work) (c : Chk) : (w.setChk c).symOver = w.symOver := rfl
@[simp] theorem Work.setChk_chk (w : Work) (c : Chk) : (w.setChk c).chk = c := rfl
@[simp] theorem Work.setChk_chkDone (w : Work) (c : Chk) : (w.setChk c).chkDone = true := rfl
@[simp] theorem Work.setChk_outv (w : Work) (c : Chk) : (w.setChk c).outv = w.outv := rfl
@[simp] theorem Status.accepted_busy (f : Status) : f.accepted.busy = true := rfl
@[simp] theorem Status.accepted_done (f : Status) : f.accepted.done = false := rfl
@[simp] theorem Status.accepted_ovr (f : Status) : f.accepted.ovr = false := rfl
@[simp] theorem Status.accepted_err (f : Status) : f.accepted.err = f.err := rfl
@[simp] theorem Status.accepted_shortsub (f : Status) : f.accepted.shortsub = f.shortsub := rfl
@[simp] theorem Status.dropped_busy (f : Status) : f.dropped.busy = f.busy := rfl
@[simp] theorem Status.dropped_done (f : Status) : f.dropped.done = f.done := rfl
@[simp] theorem Status.dropped_ovr (f : Status) : f.dropped.ovr = true := rfl
@[simp] theorem Status.dropped_err (f : Status) : f.dropped.err = f.err := rfl
@[simp] theorem Status.dropped_shortsub (f : Status) : f.dropped.shortsub = f.shortsub := rfl
@[simp] theorem Status.committed_busy (f : Status) (o : OutV) : (f.committed o).busy = false := rfl
@[simp] theorem Status.committed_done (f : Status) (o : OutV) : (f.committed o).done = true := rfl
@[simp] theorem Status.committed_ovr (f : Status) (o : OutV) : (f.committed o).ovr = f.ovr := rfl
@[simp] theorem Status.committed_err (f : Status) (o : OutV) : (f.committed o).err = o.err.code := rfl
@[simp] theorem Status.committed_shortsub (f : Status) (o : OutV) : (f.committed o).shortsub = o.shortsub := rfl

end Sys2Proof.Machine
end

