-- ==== Sys2Proof/Laws/Ops.lean ====
section
/-! SUPPORT. For each shared operation, and for the step, one lemma that says once everything it can do. -/

namespace Sys2Proof.Machine

/-- The commit: the output fits and everything is written at once, or the core waits. -/
theorem State.commit_cases (s : State) :
    (s.hasRoom s.work.outv.items = true ∧
      s.commit =
        { s with
          sout := s.sout ++ s.work.outv.items.toSout
          bout := s.bout ++ s.work.outv.items.toBout
          status := s.status.committed s.work.outv
          result := s.work.outv.result
          consumed := s.work.outv.consumed
          outlen := s.work.outv.outlen
          fsm := .idle
          work := Work.leftOver s.tick }) ∨
    (s.hasRoom s.work.outv.items = false ∧ s.commit = s) := by
  by_cases h : s.hasRoom s.work.outv.items = true
  · exact .inl ⟨h, by simp [State.commit, h]⟩
  · simp only [Bool.not_eq_true] at h
    exact .inr ⟨h, by simp [State.commit, h]⟩

/-- Starting a command: the context is latched; the illegal command is about to commit error 6, every other collects. -/
theorem State.start_cases (s : State) (c : Cmd) :
    (c = .illegal ∧
      s.start c =
        { s with
          lop := c, lcfg := s.cfg, larg := s.arg, status := s.status.accepted, fsm := .commit
          work := { s.work with outv := OutV.fail .illegalCommand false } }) ∨
    (c ≠ .illegal ∧
      s.start c =
        { s with
          lop := c, lcfg := s.cfg, larg := s.arg, status := s.status.accepted, fsm := .collect
          work := Work.cleared }) := by
  by_cases h : c = .illegal
  · exact .inl ⟨h, by simp [State.start, h]⟩
  · exact .inr ⟨h, by simp [State.start, h]⟩

/-- A `CMD` write: accepted in `IDLE`, dropped otherwise. -/
theorem State.cmdWrite_cases (s : State) (c : Cmd) :
    (s.fsm = .idle ∧ s.cmdWrite c = s.start c) ∨
    (s.fsm ≠ .idle ∧ s.cmdWrite c = { s with status := s.status.dropped }) := by
  by_cases h : s.fsm = .idle
  · exact .inl ⟨h, by simp [State.cmdWrite, h]⟩
  · exact .inr ⟨h, by simp [State.cmdWrite, h]⟩

/-- A register write: `CFG`, `CMD`, `ARG`, or nothing. -/
theorem State.writeReg_cases (s : State) (slot : Slot) (v : Word32) :
    (slot = 0 ∧ s.writeReg slot v = { s with cfg := cfgStored v }) ∨
    (slot = 1 ∧ s.writeReg slot v = s.cmdWrite (Cmd.ofWord v)) ∨
    (slot = 2 ∧ s.writeReg slot v = { s with arg := v }) ∨
    (3 ≤ slot.toNat ∧ s.writeReg slot v = s) := by
  match slot with
  | 0#3 => exact .inl ⟨rfl, rfl⟩
  | 1#3 => exact .inr (.inl ⟨rfl, rfl⟩)
  | 2#3 => exact .inr (.inr (.inl ⟨rfl, rfl⟩))
  | 3#3 => exact .inr (.inr (.inr ⟨by decide, rfl⟩))
  | 4#3 => exact .inr (.inr (.inr ⟨by decide, rfl⟩))
  | 5#3 => exact .inr (.inr (.inr ⟨by decide, rfl⟩))
  | 6#3 => exact .inr (.inr (.inr ⟨by decide, rfl⟩))
  | 7#3 => exact .inr (.inr (.inr ⟨by decide, rfl⟩))

/-- A push to `BIN` takes effect, or the host waits at it. -/
theorem State.pushBin_cases (s : State) (x : BinItem) :
    (s.bin.length < Config.capBin ∧
      s.pushOrWait (s.pushBin x) = { s with bin := s.bin ++ [x], hostq := s.hostq.tail }) ∨
    (Config.capBin ≤ s.bin.length ∧ s.pushOrWait (s.pushBin x) = s) := by
  by_cases h : s.bin.length < Config.capBin
  · exact .inl ⟨h, by simp [State.pushBin, State.pushOrWait, State.retire, h]⟩
  · exact .inr ⟨by omega, by simp [State.pushBin, State.pushOrWait, h]⟩

/-- A push to `TIN` takes effect, or the host waits at it. -/
theorem State.pushTin_cases (s : State) (x : Token) :
    (s.tin.length < Config.capTin ∧
      s.pushOrWait (s.pushTin x) = { s with tin := s.tin ++ [x], hostq := s.hostq.tail }) ∨
    (Config.capTin ≤ s.tin.length ∧ s.pushOrWait (s.pushTin x) = s) := by
  by_cases h : s.tin.length < Config.capTin
  · exact .inl ⟨h, by simp [State.pushTin, State.pushOrWait, State.retire, h]⟩
  · exact .inr ⟨by omega, by simp [State.pushTin, State.pushOrWait, h]⟩

/-- `POPS`: the head item is returned and removed, or the host waits. -/
theorem execPops_cases (s : State) :
    (∃ x rest, s.sout = x :: rest ∧
      execPops s = .next { s with sout := rest, reply := .sym x, hostq := s.hostq.tail }) ∨
    (s.sout = [] ∧ execPops s = .next s) := by
  rcases h : s.sout with _ | ⟨x, rest⟩
  · exact .inr ⟨rfl, by simp [execPops, State.popSout, h]⟩
  · exact .inl ⟨x, rest, rfl, by simp [execPops, State.popSout, h, State.answer, State.retire]⟩

/-- `POPB`: the head byte is returned and removed, or the host waits. -/
theorem execPopb_cases (s : State) :
    (∃ x rest, s.bout = x :: rest ∧
      execPopb s = .next { s with bout := rest, reply := .byte x, hostq := s.hostq.tail }) ∨
    (s.bout = [] ∧ execPopb s = .next s) := by
  rcases h : s.bout with _ | ⟨x, rest⟩
  · exact .inr ⟨rfl, by simp [execPopb, State.popBout, h]⟩
  · exact .inl ⟨x, rest, rfl, by simp [execPopb, State.popBout, h, State.answer, State.retire]⟩

/-- `COLLECT`: the input FIFO of the command is empty (or the command has none) and nothing happens, or one item is
popped: the end marker, a byte or a token. -/
theorem State.collect_cases (s : State) :
    s.collect = s ∨
    (s.lop.inPort = .bin ∧ ∃ x rest, s.bin = x :: rest ∧
      ((x.isEnd = true ∧ s.collect = { s with bin := rest, fsm := .compute }) ∨
       (x.isEnd = false ∧ s.collect = { s with bin := rest, work := s.work.keepByte x.byte }))) ∨
    (s.lop.inPort = .tin ∧ ∃ t rest, s.tin = t :: rest ∧
      ((t.isEnd = true ∧ s.collect = { s with tin := rest, fsm := .compute }) ∨
       (t.isEnd = false ∧
        s.collect = { s with tin := rest, work := s.work.takeToken s.lop s.lcfg t }))) := by
  rcases hp : s.lop.inPort with _ | _ | _
  · rcases hb : s.bin with _ | ⟨x, rest⟩
    · exact .inl (by simp [State.collect, hp, hb])
    · refine .inr (.inl ⟨rfl, x, rest, rfl, ?_⟩)
      rcases he : x.isEnd with _ | _ <;> simp [State.collect, hp, hb, he]
  · rcases hb : s.tin with _ | ⟨t, rest⟩
    · exact .inl (by simp [State.collect, hp, hb])
    · refine .inr (.inr ⟨rfl, t, rest, rfl, ?_⟩)
      rcases he : t.isEnd with _ | _ <;> simp [State.collect, hp, hb, he]
  · exact .inl (by simp [State.collect, hp])

/-- `COMPUTE`: waiting for the provider; deciding `OUTV`; asking for a digest; or taking the fast checksum. -/
theorem State.compute_cases (s : State) :
    (s.dpend = true ∧ s.compute = s) ∨
    (s.dpend = false ∧ s.compute = s.finish ∧
      (s.work.toCheck s.lop s.lcfg = none ∨ s.work.chkDone = true)) ∨
    (∃ q, s.dpend = false ∧ s.work.toCheck s.lop s.lcfg = some q ∧ s.work.chkDone = false ∧
      ((csel s.lcfg = true ∧ s.compute = s.askDigest q) ∨
       (csel s.lcfg = false ∧ s.compute = { s with work := s.work.setChk (checksum false q) }))) := by
  rcases hd : s.dpend with _ | _
  · refine .inr ?_
    rcases hq : s.work.toCheck s.lop s.lcfg with _ | q
    · exact .inl ⟨rfl, by simp [State.compute, hd, hq], .inl rfl⟩
    · rcases hc : s.work.chkDone with _ | _
      · refine .inr ⟨q, rfl, rfl, rfl, ?_⟩
        rcases hs : csel s.lcfg with _ | _ <;> simp [State.compute, hd, hq, hc, hs]
      · exact .inl ⟨rfl, by simp [State.compute, hd, hq, hc], .inr rfl⟩
  · exact .inl ⟨rfl, by simp [State.compute, hd]⟩

/-- The provider's step: the answer arrives, or there is no request and nothing happens. -/
theorem State.digestAnswer_cases (s : State) :
    (s.dpend = true ∧
      s.digestAnswer =
        { s with dpend := false, dreq := [], work := s.work.setChk (trunc17 (Config.digest s.dreq)) }) ∨
    (s.dpend = false ∧ s.digestAnswer = s) := by
  rcases h : s.dpend with _ | _ <;> simp [State.digestAnswer, h]

/-- The core's step, by the sequencer's state. -/
theorem State.coreStep_cases (s : State) :
    (s.fsm = .idle ∧ s.coreStep = s) ∨ (s.fsm = .collect ∧ s.coreStep = s.collect) ∨
    (s.fsm = .compute ∧ s.coreStep = s.compute) ∨ (s.fsm = .commit ∧ s.coreStep = s.commit) := by
  rcases h : s.fsm with _ | _ | _ | _ <;> simp [State.coreStep, h]

/-- The host's turn, when it answers a next state: nothing is pending, or the pending word's operation is performed. -/
theorem hostStep_next {s t : State} (h : hostStep s = .next t) :
    (s.hostq = [] ∧ t = s) ∨
    (∃ w rest i, s.hostq = w :: rest ∧ decode w = .ok i ∧ exec i s = .next t) := by
  rcases hq : s.hostq with _ | ⟨w, rest⟩
  · simp [hostStep, State.fetch, hq] at h
    exact .inl ⟨rfl, h.symm⟩
  · refine .inr ⟨w, rest, ?_⟩
    rcases hd : decode w with e | i
    · simp [hostStep, State.fetch, hq, hd] at h
    · simp [hostStep, State.fetch, hq, hd] at h
      exact ⟨i, rfl, rfl, h⟩

/-- One step that answers a next state: whose turn it was, and what that agent did. -/
theorem step_next {s t : State} (h : step s = .next t) :
    (s.turn = .host ∧ hostStep s.nextTurn = .next t) ∨
    (s.turn = .core ∧ t = s.nextTurn.coreStep) ∨
    (s.turn = .digest ∧ t = s.nextTurn.digestAnswer) ∨
    (s.turn = .lateDigest ∧ t = s.nextTurn.lateAnswer) ∨
    (s.turn = .reset ∧ t = s.nextTurn.platformReset) ∨
    (s.turn = .quiet ∧ t = s.nextTurn) := by
  unfold step at h
  rcases ht : s.turn with _ | _ | _ | _ | _ | _ <;> simp [ht] at h <;> simp [h]

/-- A host operation always answers a next state: "Always enabled", or the host waits (R37, R121 to R126). -/
theorem exec_next (i : Instr) (s : State) : ∃ t, exec i s = .next t := by
  cases i with
  | pops => rcases execPops_cases s with ⟨x, rest, -, h⟩ | ⟨-, h⟩ <;> exact ⟨_, h⟩
  | popb => rcases execPopb_cases s with ⟨x, rest, -, h⟩ | ⟨-, h⟩ <;> exact ⟨_, h⟩
  | _ => exact ⟨_, rfl⟩

/-- What a host operation does when it answers a next state: it waits, answers a read, writes `CFG`, `CMD`, `ARG` or a slot
that takes no value, pushes at the end of an input FIFO, or pops the head of an output FIFO. -/
theorem exec_cases {i : Instr} {s t : State} (h : exec i s = .next t) :
    t = s ∨
    (∃ v, t = { s with reply := .reg v, hostq := s.hostq.tail }) ∨
    (∃ v, t = { s with cfg := cfgStored v, hostq := s.hostq.tail }) ∨
    (∃ c, t = (s.cmdWrite c).retire) ∨
    (∃ v, t = { s with arg := v, hostq := s.hostq.tail }) ∨
    t = { s with hostq := s.hostq.tail } ∨
    (∃ x, s.bin.length < Config.capBin ∧ t = { s with bin := s.bin ++ [x], hostq := s.hostq.tail }) ∨
    (∃ x, s.tin.length < Config.capTin ∧ t = { s with tin := s.tin ++ [x], hostq := s.hostq.tail }) ∨
    (∃ x rest, s.sout = x :: rest ∧
      t = { s with sout := rest, reply := .sym x, hostq := s.hostq.tail }) ∨
    (∃ x rest, s.bout = x :: rest ∧
      t = { s with bout := rest, reply := .byte x, hostq := s.hostq.tail }) := by
  have cmd : ∀ c, t = (s.cmdWrite c).retire → ∃ c, t = (s.cmdWrite c).retire := fun c h => ⟨c, h⟩
  cases i with
  | rd slot => exact .inr (.inl ⟨_, (Host.Outcome.next.inj h).symm⟩)
  | wr slot v =>
    have h := (Host.Outcome.next.inj h).symm
    rcases s.writeReg_cases slot v with ⟨-, e⟩ | ⟨-, e⟩ | ⟨-, e⟩ | ⟨-, e⟩ <;> rw [e] at h
    · exact .inr (.inr (.inl ⟨v, h⟩))
    · exact .inr (.inr (.inr (.inl ⟨_, h⟩)))
    · exact .inr (.inr (.inr (.inr (.inl ⟨v, h⟩))))
    · exact .inr (.inr (.inr (.inr (.inr (.inl h)))))
  | pushb x =>
    have h := (Host.Outcome.next.inj h).symm
    rcases s.pushBin_cases x with ⟨hl, e⟩ | ⟨-, e⟩ <;> rw [e] at h
    · exact .inr (.inr (.inr (.inr (.inr (.inr (.inl ⟨x, hl, h⟩))))))
    · exact .inl h
  | pusht x =>
    have h := (Host.Outcome.next.inj h).symm
    rcases s.pushTin_cases x with ⟨hl, e⟩ | ⟨-, e⟩ <;> rw [e] at h
    · exact .inr (.inr (.inr (.inr (.inr (.inr (.inr (.inl ⟨x, hl, h⟩)))))))
    · exact .inl h
  | pops =>
    rcases execPops_cases s with ⟨x, rest, hs, e⟩ | ⟨-, e⟩ <;>
      have h := (Host.Outcome.next.inj (e.symm.trans h)).symm
    · exact .inr (.inr (.inr (.inr (.inr (.inr (.inr (.inr (.inl ⟨x, rest, hs, h⟩))))))))
    · exact .inl h
  | popb =>
    rcases execPopb_cases s with ⟨x, rest, hs, e⟩ | ⟨-, e⟩ <;>
      have h := (Host.Outcome.next.inj (e.symm.trans h)).symm
    · exact .inr (.inr (.inr (.inr (.inr (.inr (.inr (.inr (.inr ⟨x, rest, hs, h⟩))))))))
    · exact .inl h
  | encode => exact .inr (.inr (.inr (.inl ⟨_, (Host.Outcome.next.inj h).symm⟩)))
  | decode => exact .inr (.inr (.inr (.inl ⟨_, (Host.Outcome.next.inj h).symm⟩)))
  | checksum => exact .inr (.inr (.inr (.inl ⟨_, (Host.Outcome.next.inj h).symm⟩)))
  | pack => exact .inr (.inr (.inr (.inl ⟨_, (Host.Outcome.next.inj h).symm⟩)))
  | unpack => exact .inr (.inr (.inr (.inl ⟨_, (Host.Outcome.next.inj h).symm⟩)))
  | cmdIllegal data => exact .inr (.inr (.inr (.inl ⟨_, (Host.Outcome.next.inj h).symm⟩)))

/-- A `CMD` write leaves the host's words and the turns alone. -/
theorem State.cmdWrite_clock (s : State) (c : Cmd) :
    (s.cmdWrite c).hostq = s.hostq ∧ (s.cmdWrite c).sched = s.sched ∧ (s.cmdWrite c).tick = s.tick := by
  rcases s.cmdWrite_cases c with ⟨-, h⟩ | ⟨-, h⟩
  · rcases s.start_cases c with ⟨-, h'⟩ | ⟨-, h'⟩ <;> simp [h, h']
  · simp [h]

/-- A host operation takes no turn of its own and leaves the host's words, or all but the first. -/
theorem exec_clock {i : Instr} {s t : State} (h : exec i s = .next t) :
    t.sched = s.sched ∧ t.tick = s.tick ∧ (t.hostq = s.hostq ∨ t.hostq = s.hostq.tail) := by
  rcases exec_cases h with rfl | ⟨_, rfl⟩ | ⟨_, rfl⟩ | ⟨c, rfl⟩ | ⟨_, rfl⟩ | rfl | ⟨_, _, rfl⟩ | ⟨_, _, rfl⟩ |
    ⟨_, _, _, rfl⟩ | ⟨_, _, _, rfl⟩ <;> simp [State.cmdWrite_clock]

/-- The core's step leaves the host's words and the turns alone. -/
theorem State.coreStep_clock (s : State) :
    s.coreStep.sched = s.sched ∧ s.coreStep.tick = s.tick ∧ s.coreStep.hostq = s.hostq := by
  rcases s.coreStep_cases with ⟨-, h⟩ | ⟨-, h⟩ | ⟨-, h⟩ | ⟨-, h⟩ <;> rw [h]
  · exact ⟨rfl, rfl, rfl⟩
  · rcases s.collect_cases with h | ⟨-, _, _, -, ⟨-, h⟩ | ⟨-, h⟩⟩ | ⟨-, _, _, -, ⟨-, h⟩ | ⟨-, h⟩⟩ <;> simp [h]
  · rcases s.compute_cases with ⟨-, h⟩ | ⟨-, h, -⟩ | ⟨_, -, -, -, ⟨-, h⟩ | ⟨-, h⟩⟩ <;>
      simp [h, State.finish, State.askDigest]
  · rcases s.commit_cases with ⟨-, h⟩ | ⟨-, h⟩ <;> simp [h]

/-- Every step takes one turn, and leaves the host's words, or all but the first. -/
theorem step_clock {s t : State} (h : step s = .next t) :
    t.sched = s.sched.tail ∧ t.tick = s.tick + 1 ∧ (t.hostq = s.hostq ∨ t.hostq = s.hostq.tail) := by
  rcases step_next h with ⟨-, h⟩ | ⟨-, rfl⟩ | ⟨-, rfl⟩ | ⟨-, rfl⟩ | ⟨-, rfl⟩ | ⟨-, rfl⟩
  · rcases hostStep_next h with ⟨-, rfl⟩ | ⟨_, _, i, -, -, h⟩
    · exact ⟨rfl, rfl, .inl rfl⟩
    · simpa using exec_clock h
  · simp [State.coreStep_clock]
  · rcases s.nextTurn.digestAnswer_cases with ⟨-, h⟩ | ⟨-, h⟩ <;> simp [h]
  · exact ⟨rfl, rfl, .inl rfl⟩
  · exact ⟨rfl, rfl, .inl rfl⟩
  · exact ⟨rfl, rfl, .inl rfl⟩

end Sys2Proof.Machine
end

