-- ==== Sys2Proof/Laws/Fairness.lean ====
section
/-! SUPPORT. The order of turns after the end of the schedule is weakly fair to the core, whatever the free values are, and
every such order is one that some free values give (70_reset_and_hazards.md R160; log 16). -/

namespace Sys2Proof.Machine

variable (gap : Nat → Nat) (free : Nat → Turn)

theorem turnsToCore_succ (n : Nat) :
    turnsToCore gap (n + 1) = if turnsToCore gap n = 0 then gap (n + 1) else turnsToCore gap n - 1 := by
  rw [turnsToCore]
  rcases turnsToCore gap n with _ | k <;> simp

/-- The turns until the core's count down by one at each step. -/
theorem turnsToCore_add (n k : Nat) (h : k ≤ turnsToCore gap n) :
    turnsToCore gap (n + k) = turnsToCore gap n - k := by
  induction k with
  | zero => rfl
  | succ k ih =>
    have hk := ih (by omega)
    rw [← Nat.add_assoc, turnsToCore_succ, if_neg (by omega), hk]
    omega

/-- The core's turn is due exactly where no turns are left to it. -/
theorem fairTurn_of_due {n : Nat} (h : turnsToCore gap n = 0) : fairTurn gap free n = .core := by
  simp [fairTurn, h]

theorem fairTurn_of_not_due {n : Nat} (h : turnsToCore gap n ≠ 0) : fairTurn gap free n = free n := by
  obtain ⟨k, hk⟩ := Nat.exists_eq_succ_of_ne_zero h
  simp [fairTurn, hk]

/-- From every step on the core's turn comes again. -/
theorem fairTurn_recurs (n : Nat) : ∃ k, fairTurn gap free (n + k) = .core :=
  ⟨turnsToCore gap n, fairTurn_of_due gap free (by rw [turnsToCore_add gap n _ le_rfl, Nat.sub_self])⟩

/-- Every order of turns in which the core's always comes again is given by some free values. -/
theorem fairTurn_onto (order : Nat → Turn) (h : ∀ n, ∃ k, order (n + k) = .core) :
    ∃ gap, fairTurn gap order = order := by
  classical
  have dist : ∀ n, turnsToCore (fun n => Nat.find (h n)) n = Nat.find (h n) := by
    intro n
    induction n with
    | zero => rfl
    | succ n ih =>
      rw [turnsToCore_succ, ih]
      split
      · rfl
      · next h0 =>
        refine ((Nat.find_eq_iff (h (n + 1))).2 ⟨?_, fun m hm => ?_⟩).symm
        · have := Nat.find_spec (h n)
          rwa [show n + Nat.find (h n) = n + 1 + (Nat.find (h n) - 1) by omega] at this
        · have := Nat.find_min (h n) (show m + 1 < Nat.find (h n) by omega)
          rwa [show n + 1 + m = n + (m + 1) by omega]
  refine ⟨fun n => Nat.find (h n), funext fun n => ?_⟩
  by_cases h0 : Nat.find (h n) = 0
  · have := Nat.find_spec (h n)
    rw [h0, Nat.add_zero] at this
    rw [fairTurn_of_due _ _ (by rw [dist, h0]), this]
  · exact fairTurn_of_not_due _ _ (by rwa [dist])

/-! Coming to a state. -/

variable {s t : State} {p q : State → Prop}

theorem State.LeadsTo.here (h : p s) : s.LeadsTo p := ⟨0, s, rfl, h⟩

theorem State.LeadsTo.step (h : Machine.step s = .next t) (ht : t.LeadsTo p) : s.LeadsTo p := by
  obtain ⟨n, u, hr, hu⟩ := ht
  refine ⟨n + 1, u, ?_, hu⟩
  simpa [Host.Core.run, show Sys2Proof.core.step = Machine.step from rfl, h] using hr

theorem State.LeadsTo.mono (h : s.LeadsTo p) (hpq : ∀ u, p u → q u) : s.LeadsTo q := by
  obtain ⟨n, u, hr, hu⟩ := h
  exact ⟨n, u, hr, hpq u hu⟩

theorem State.LeadsTo.trans (h : s.LeadsTo p) (hpq : ∀ u, p u → u.LeadsTo q) : s.LeadsTo q := by
  obtain ⟨n, u, hr, hu⟩ := h
  induction n generalizing s with
  | zero => exact hpq s (Host.Outcome.next.inj hr ▸ hu)
  | succ n ih =>
    simp only [Host.Core.run] at hr
    split at hr
    · next s' hs => exact .step hs (ih hr)
    · cases hr
    · cases hr

/-- While the host's words spell host operations, every step answers a next state, and they go on doing so. -/
theorem State.HostSpells.step_next (h : s.HostSpells) : ∃ t, step s = .next t ∧ t.HostSpells := by
  have hn : ∃ t, Machine.step s = .next t := by
    unfold Machine.step
    rcases s.turn with _ | _ | _ | _ | _ | _
    · rcases hq : s.hostq with _ | ⟨w, rest⟩
      · exact ⟨_, by simp [hostStep, State.fetch, hq]; rfl⟩
      · obtain ⟨i, hi⟩ := h w (by simp [hq])
        obtain ⟨t, ht⟩ := exec_next i s.nextTurn
        exact ⟨t, by simp [hostStep, State.fetch, hq, hi, ht]⟩
    all_goals exact ⟨_, rfl⟩
  obtain ⟨t, ht⟩ := hn
  refine ⟨t, ht, fun w hw => h w ?_⟩
  rcases (step_clock ht).2.2 with e | e <;> rw [e] at hw
  · exact hw
  · exact List.mem_of_mem_tail hw

/-- The rule of weak fairness: what every step of another agent keeps, and a step of the core turns into `q`, leads to `q`. -/
theorem leadsTo_of_core_step {J : State → Prop} (hs : s.HostSpells) (hJ : J s)
    (keep : ∀ u v, J u → u.HostSpells → v.HostSpells → u.turn ≠ .core → step u = .next v → J v ∨ v.LeadsTo q)
    (core : ∀ u v, J u → u.HostSpells → v.HostSpells → u.turn = .core → step u = .next v → v.LeadsTo q) :
    s.LeadsTo q := by
  obtain ⟨k, hk⟩ : ∃ k, ∀ t : State, t.tick = s.tick + k → t.sched = s.sched.drop k → t.turn = .core := by
    obtain ⟨k, hk⟩ := fairTurn_recurs Config.freeGap Config.freeTurn (s.tick + s.sched.length)
    refine ⟨s.sched.length + k, fun t ht hd => ?_⟩
    rw [List.drop_of_length_le (by omega)] at hd
    simp only [State.turn, hd, ht]
    rwa [← Nat.add_assoc]
  induction k generalizing s with
  | zero =>
    obtain ⟨t, ht, hts⟩ := hs.step_next
    exact .step ht (core s t hJ hs hts (hk s rfl rfl) ht)
  | succ k ih =>
    obtain ⟨t, ht, hts⟩ := hs.step_next
    refine .step ht ?_
    by_cases hc : s.turn = .core
    · exact core s t hJ hs hts hc ht
    · rcases keep s t hJ hs hts hc ht with hJ' | hq
      · refine ih hts hJ' fun u hu hd => hk u ?_ ?_
        · rw [hu, (step_clock ht).2.1]
          omega
        · rw [hd, (step_clock ht).1, List.drop_tail]
      · exact hq

end Sys2Proof.Machine
end

