-- ==== Sys2Proof/Laws/PerInstr.lean ====
section
/-! SUPPORT. Per-instruction laws about the syntax: every encoding spells one of the six kinds with the reserved bit clear
(30_encoding.md R73). -/

namespace Sys2Proof.Laws.EncodedKind

/-- The encoding's `KIND` is one of 0 to 5 and its bit 35 is 0 (R73). -/
def Statement (i : Instr) : Prop :=
  (hostKind (encode i)).toNat ≤ 5 ∧ hostReserved (encode i) = false

theorem rd (slot : Slot) : Statement (.rd slot) := by simp [Statement, encode]
theorem wr (slot : Slot) (data : Word32) : Statement (.wr slot data) := by simp [Statement, encode]
theorem encode : Statement .encode := by simp [Statement, Sys2Proof.encode]
theorem decode : Statement .decode := by simp [Statement, Sys2Proof.encode]
theorem checksum : Statement .checksum := by simp [Statement, Sys2Proof.encode]
theorem pack : Statement .pack := by simp [Statement, Sys2Proof.encode]
theorem unpack : Statement .unpack := by simp [Statement, Sys2Proof.encode]
theorem cmdIllegal (data : Word32) : Statement (.cmdIllegal data) := by simp [Statement, Sys2Proof.encode]
theorem pushb (item : BinItem) : Statement (.pushb item) := by simp [Statement, Sys2Proof.encode]
theorem pusht (item : Token) : Statement (.pusht item) := by simp [Statement, Sys2Proof.encode]
theorem pops : Statement .pops := by simp [Statement, Sys2Proof.encode]
theorem popb : Statement .popb := by simp [Statement, Sys2Proof.encode]

end Sys2Proof.Laws.EncodedKind
end

