-- ==== Sys2Proof/Machine/Sha256.lean ====
section
/-! DEFINITION. SHA-256, "spec's default" for the parameter `DIGEST` (00_scope.md R6; 40_checksum.md R83; PRESUMED, log 6:
the algorithm is general knowledge, no rule of the spec gives it). No step of the machine uses this file: the machine's
digest is the opaque `Config.digest`. It lets the strong-variant vectors of 95_test_vectors.md be evaluated. -/

namespace Sys2Proof.Machine

/-! The round constants, eight at a time. -/

/-- Round constants, group 0. -/
def shaK0 : List Word32 :=
  [0x428a2f98, 0x71374491, 0xb5c0fbcf, 0xe9b5dba5,
   0x3956c25b, 0x59f111f1, 0x923f82a4, 0xab1c5ed5]

/-- Round constants, group 1. -/
def shaK1 : List Word32 :=
  [0xd807aa98, 0x12835b01, 0x243185be, 0x550c7dc3,
   0x72be5d74, 0x80deb1fe, 0x9bdc06a7, 0xc19bf174]

/-- Round constants, group 2. -/
def shaK2 : List Word32 :=
  [0xe49b69c1, 0xefbe4786, 0x0fc19dc6, 0x240ca1cc,
   0x2de92c6f, 0x4a7484aa, 0x5cb0a9dc, 0x76f988da]

/-- Round constants, group 3. -/
def shaK3 : List Word32 :=
  [0x983e5152, 0xa831c66d, 0xb00327c8, 0xbf597fc7,
   0xc6e00bf3, 0xd5a79147, 0x06ca6351, 0x14292967]

/-- Round constants, group 4. -/
def shaK4 : List Word32 :=
  [0x27b70a85, 0x2e1b2138, 0x4d2c6dfc, 0x53380d13,
   0x650a7354, 0x766a0abb, 0x81c2c92e, 0x92722c85]

/-- Round constants, group 5. -/
def shaK5 : List Word32 :=
  [0xa2bfe8a1, 0xa81a664b, 0xc24b8b70, 0xc76c51a3,
   0xd192e819, 0xd6990624, 0xf40e3585, 0x106aa070]

/-- Round constants, group 6. -/
def shaK6 : List Word32 :=
  [0x19a4c116, 0x1e376c08, 0x2748774c, 0x34b0bcb5,
   0x391c0cb3, 0x4ed8aa4a, 0x5b9cca4f, 0x682e6ff3]

/-- Round constants, group 7. -/
def shaK7 : List Word32 :=
  [0x748f82ee, 0x78a5636f, 0x84c87814, 0x8cc70208,
   0x90befffa, 0xa4506ceb, 0xbef9a3f7, 0xc67178f2]

/-- The 64 round constants. -/
def shaK : List Word32 :=
  shaK0 ++ shaK1 ++ shaK2 ++ shaK3 ++ shaK4 ++ shaK5 ++ shaK6 ++ shaK7

/-- The eight chaining words. -/
structure ShaState where
  a : Word32
  b : Word32
  c : Word32
  d : Word32
  e : Word32
  f : Word32
  g : Word32
  h : Word32
deriving DecidableEq, Repr

/-- The initial chaining words. -/
def shaInit : ShaState :=
  { a := 0x6a09e667, b := 0xbb67ae85, c := 0x3c6ef372, d := 0xa54ff53a,
    e := 0x510e527f, f := 0x9b05688c, g := 0x1f83d9ab, h := 0x5be0cd19 }

/-- One round, with round constant `k` and schedule word `w`. -/
def shaRound (s : ShaState) (k w : Word32) : ShaState :=
  let s1 := s.e.rotateRight 6 ^^^ s.e.rotateRight 11 ^^^ s.e.rotateRight 25
  let ch := (s.e &&& s.f) ^^^ (~~~s.e &&& s.g)
  let t1 := s.h + s1 + ch + k + w
  let s0 := s.a.rotateRight 2 ^^^ s.a.rotateRight 13 ^^^ s.a.rotateRight 22
  let maj := (s.a &&& s.b) ^^^ (s.a &&& s.c) ^^^ (s.b &&& s.c)
  { a := t1 + (s0 + maj), b := s.a, c := s.b, d := s.c, e := s.d + t1, f := s.e, g := s.f, h := s.g }

/-- The next word of the message schedule, from the last sixteen, oldest first. -/
def shaNext (win : List Word32) : Word32 :=
  let x := win.getD 1 0
  let y := win.getD 14 0
  win.getD 0 0 + (x.rotateRight 7 ^^^ x.rotateRight 18 ^^^ (x >>> 3)) + win.getD 9 0 +
    (y.rotateRight 17 ^^^ y.rotateRight 19 ^^^ (y >>> 10))

/-- The rounds of one block: the window holds the next sixteen schedule words. -/
def shaRounds (ks : List Word32) (win : List Word32) (s : ShaState) : ShaState :=
  match ks with
  | [] => s
  | k :: rest => shaRounds rest (win.tail ++ [shaNext win]) (shaRound s k (win.headD 0))

/-- One block of sixteen words. -/
def shaBlock (s : ShaState) (block : List Word32) : ShaState :=
  let r := shaRounds shaK block s
  { a := s.a + r.a, b := s.b + r.b, c := s.c + r.c, d := s.d + r.d,
    e := s.e + r.e, f := s.f + r.f, g := s.g + r.g, h := s.h + r.h }

/-- The message with its padding: a 1 bit, zeros, and the bit length in 64 bits. -/
def shaPadded (p : List Byte) : List Byte :=
  p ++ [0x80] ++ List.replicate ((119 - p.length % 64) % 64) 0 ++ beBytes (8 * p.length) 8

/-- Block `i` of a padded message, as sixteen big-endian words. -/
def shaBlockAt (m : List Byte) (i : Nat) : List Word32 :=
  (List.range 16).map fun j => BitVec.ofNat 32 (intBe ((m.drop (64 * i + 4 * j)).take 4))

/-- SHA-256 as 32 bytes. -/
def sha256 (p : List Byte) : Vector Byte 32 :=
  let m := shaPadded p
  let s := (List.range (m.length / 64)).foldl (fun s i => shaBlock s (shaBlockAt m i)) shaInit
  let v : BitVec 256 := s.a ++ s.b ++ s.c ++ s.d ++ s.e ++ s.f ++ s.g ++ s.h
  Vector.ofFn fun i => v.extractLsb' (8 * (31 - i.val)) 8

end Sys2Proof.Machine
end

