-- ==== Sys2Proof/Tests/Slice0.lean ====
section
/-! SUPPORT. The model's own tests: words written out from 30_encoding.md, one-step tests whose expected results stand in
95_test_vectors.md, the checks of WellFormed, and for each obligation with hypotheses a concrete case that meets them. -/

namespace Sys2Proof.Tests

open Sys2Proof.Machine

/-! ## WellFormed refuses ill-formed terms (R73, R74) -/

theorem test_wr_slot_one_ill_formed : (Instr.wr 1 0).wellFormed = false := by decide
theorem test_illegal_legal_op_ill_formed : (Instr.cmdIllegal 4).wellFormed = false := by decide
theorem test_illegal_op_five_well_formed : (Instr.cmdIllegal 5).wellFormed = true := by decide
theorem test_illegal_high_bit_well_formed : (Instr.cmdIllegal 8).wellFormed = true := by decide

/-! ## Words decode: fields KIND, bit 35, SLOT, DATA written out (R73, R80) -/

theorem test_decode_rd : decode (0b0000#4 ++ 0#1 ++ 0b011#3 ++ 0#32) = .ok (.rd 3) := by decide
theorem test_decode_rd_slot7 : decode 0x0700000000 = .ok (.rd 7) := by decide
theorem test_decode_wr : decode (0b0001#4 ++ 0#1 ++ 0b010#3 ++ 18#32) = .ok (.wr 2 18) := by decide
theorem test_decode_encode : decode (0b0001#4 ++ 0#1 ++ 0b001#3 ++ 0#32) = .ok .encode := by decide
theorem test_decode_decode : decode (0b0001#4 ++ 0#1 ++ 0b001#3 ++ 1#32) = .ok .decode := by decide
theorem test_decode_checksum : decode (0b0001#4 ++ 0#1 ++ 0b001#3 ++ 2#32) = .ok .checksum := by decide
theorem test_decode_pack : decode (0b0001#4 ++ 0#1 ++ 0b001#3 ++ 3#32) = .ok .pack := by decide
theorem test_decode_unpack : decode (0b0001#4 ++ 0#1 ++ 0b001#3 ++ 4#32) = .ok .unpack := by decide
theorem test_decode_illegal : decode (0b0001#4 ++ 0#1 ++ 0b001#3 ++ 8#32) = .ok (.cmdIllegal 8) := by decide
theorem test_decode_pushb :
    decode (0b0010#4 ++ 0#1 ++ 0#3 ++ (0#23 ++ 1#1 ++ 0x68#8)) = .ok (.pushb { byte := 0x68, isEnd := true }) := by
  decide
theorem test_decode_pusht :
    decode (0b0011#4 ++ 0#1 ++ 0#3 ++ (0#20 ++ 0#1 ++ 1#1 ++ 0#1 ++ 0x1A4#9)) =
      .ok (.pusht { value := 0x1A4, valid := false, sent := true, isEnd := false }) := by decide
theorem test_decode_pops : decode (0b0100#4 ++ 0#1 ++ 0#3 ++ 0#32) = .ok .pops := by decide
theorem test_decode_popb : decode (0b0101#4 ++ 0#1 ++ 0#3 ++ 0#32) = .ok .popb := by decide
theorem test_decode_kind6 : decode 0x6000000000 = .error .reservedKind := by decide
theorem test_decode_bit35 : decode 0x0800000000 = .error .reservedBit := by decide
theorem test_decode_pops_slot : decode 0x4100000000 = .error .slotNotZero := by decide
theorem test_decode_pushb_data : decode 0x2000000200 = .error .dataNotZero := by decide
theorem test_table_word_pack : decodeTableWord 40 0x1100000003 = some .pack := by decide
theorem test_table_word_too_long : decodeTableWord 48 0x011100000003 = none := by decide

/-! ## One step each (95_test_vectors.md part 2) -/

/-- What a predicate says of the next state; false of a stop. -/
def next? (o : Host.Outcome State Fault Refusal) (f : State → Bool) : Bool :=
  match o with
  | .next s => f s
  | .fault _ => false
  | .refused _ => false

/-- 2.6: after reset, `RD STATUS` returns 0. -/
theorem test_rd_status_after_reset :
    next? (step (State.reset.withFetchWord 40 0x0300000000)) (fun s => s.reply == .reg 0) = true := by decide
/-- 2.6: `WR CFG, 0xFFFFFFFF` then `RD CFG` gives 7. -/
theorem test_wr_cfg_reserved : next? (exec (.wr 0 0xFFFFFFFF) State.reset) (fun s => s.readReg 0 == 7) = true := by
  decide
/-- 2.6: after reset, `PUSHB.END` makes `BIN = [END]`. -/
theorem test_pushb_end :
    next? (step (State.reset.withFetchWord 40 0x2000000100)) (fun s => s.bin == [⟨0, true⟩]) = true := by decide
/-- 3.2: the word of `PUSHT 0x03D`. -/
theorem test_pusht_word :
    next? (step (State.reset.withFetchWord 40 0x300000023D)) (fun s => s.tin == [⟨0x03D, true, false, false⟩]) =
      true := by decide
/-- 2.6: `SOUT` empty, `POPS`: no step (the host waits, its word still pending). -/
theorem test_pops_waits :
    next? (step (State.reset.withFetchWord 40 0x4000000000)) (fun s => s.hostq == [0x4000000000]) = true := by decide
/-- 3.1: `POPS` returns the sentinel item 0x200 first. -/
theorem test_pops_sentinel :
    next? (exec .pops { State.reset with sout := [⟨0, true⟩, ⟨0x07F, false⟩] })
      (fun s => s.reply == .sym ⟨0, true⟩ && s.sout == [⟨0x07F, false⟩]) = true ∧
    (⟨0, true⟩ : SymItem).toBits = 0x200 := by decide
/-- 3.2: `POPB` returns the bytes in order. -/
theorem test_popb_order :
    next? (exec .popb { State.reset with bout := [0x68, 0x69] })
      (fun s => s.reply == .byte 0x68 && s.bout == [0x69]) = true := by decide
/-- 3.4: after the illegal command, `STATUS` is 0x62; no FIFO item is popped. -/
theorem test_illegal_status :
    next? (exec (.cmdIllegal 7) { State.reset with bin := [⟨1, false⟩] })
      (fun s => s.fsm == .commit && s.coreStep.status.word == 0x62 && s.coreStep.bin == [⟨1, false⟩]) = true := by
  decide
/-- 3.4: a second `CMD` write while the `DECODE` waits: `STATUS` reads 0x65. -/
theorem test_dropped_status :
    next? (exec .encode
        { State.reset with
          fsm := .collect, lop := .decode
          status := { busy := true, done := false, ovr := false, err := 6, shortsub := false } })
      (fun s => s.status.word == 0x65 && s.lop == .decode) = true := by decide
/-- 2.6: the running command keeps the latched `CFG`. -/
theorem test_latched_cfg :
    next? (exec .encode { State.reset with cfg := 2 })
      (fun s => (s.writeReg 0 1).lcfg == 2 && (s.writeReg 0 1).cfg == 1) = true := by decide
/-- 2.4: fast `"A"`, and strong `"hi"` under SHA-256. -/
theorem test_encode_A :
    (encodeCmd 0 [0x41]).items = .syms [⟨0x058, false⟩, ⟨0x1CA, false⟩, ⟨0x104, false⟩] := by decide +kernel
theorem test_encode_strong_hi :
    packetWith true true (trunc17 (sha256 [0x68, 0x69])) [0x68, 0x69] =
      [⟨0, true⟩, ⟨0x03D, false⟩, ⟨0x0A4, false⟩, ⟨0x0D0, false⟩, ⟨0x1A4, false⟩] := by decide +kernel

/-- A valid token without the sentinel bit. -/
def valid (v : SymVal) : Token := { value := v, valid := true, sent := false, isEnd := false }
/-- A codepoint outside the alphabet. -/
def absent : Token := { value := 0, valid := false, sent := false, isEnd := false }

/-- 2.5: `"A"` with its parity bit set decodes; two strong symbols with the parity bit do not. -/
theorem test_decode_parity_not_read :
    packetDecode 0 [valid 0x158, valid 0x1CA, valid 0x104] = .ok [0x41] 3 0x58E5 := by decide +kernel
theorem test_decode_invalid_padding :
    packetDecode 1 [valid 0x100, valid 0x055] = .err .invalidPadding false := by decide +kernel
/-- 2.1: the check value, and SHA-256 of no bytes. -/
theorem test_checksum_digits : (checksumCmd 0 [0x31, 0x32, 0x33, 0x34, 0x35, 0x36, 0x37, 0x38, 0x39]).result = 0x31C3 := by
  decide +kernel
theorem test_checksum_strong_empty : trunc17 (sha256 []) = 0x0B855 := by decide +kernel
/-- 2.2: `ARG = 18`, bytes `00 B8 55`; and `ARG = 9`, bytes `02 00`. -/
theorem test_pack_18 : (packCmd 18 [0x00, 0xB8, 0x55]).items = .syms [⟨0x05C, false⟩, ⟨0x055, false⟩] := by
  decide +kernel
theorem test_pack_too_wide : (packCmd 9 [0x02, 0x00]).err = .badOperand := by decide +kernel
/-- 2.3: `05C, 055, X, 1FF`; and `001, 002, 003`. -/
theorem test_unpack_stops :
    unpackCmd [valid 0x05C, valid 0x055, absent, valid 0x1FF] = OutV.success 18 2 3 (.bytes [0x00, 0xB8, 0x55]) := by
  decide +kernel
theorem test_unpack_three :
    (unpackCmd [valid 1, valid 2, valid 3]).items = .bytes [0x00, 0x04, 0x04, 0x03] := by decide +kernel

/-! ## Cases that meet the hypotheses of the obligations -/

/-- The state right after reset with the next turn decided. -/
def turnOf (t : Turn) : State := { State.reset with sched := [t] }

/-- A strong `CHECKSUM` of no bytes that waits for its digest; the next turn is the core's. -/
def waiting : State :=
  { State.reset with
    cfg := 1, lcfg := 1, fsm := .compute, lop := .checksum, dpend := true, sched := [.core]
    status := { busy := true, done := false, ovr := false, err := 0, shortsub := false } }

/-- A command about to commit one symbol; the next turn is the core's. -/
def committing : State :=
  { State.reset with
    fsm := .commit, lop := .pack, sched := [.core]
    status := { busy := true, done := false, ovr := false, err := 0, shortsub := false }
    work := { Work.cleared with outv := OutV.success 0 0 1 (.syms [⟨0x1FF, false⟩]) } }

/-- A command that collects. -/
def collecting (c : Cmd) (w : Work) : State := { State.reset with fsm := .collect, lop := c, work := w }

theorem cleared_bounded : Work.cleared.Bounded :=
  ⟨Nat.zero_le _, Nat.zero_le _, Nat.zero_le _, Nat.two_pow_pos _⟩

theorem waiting_inv : waiting.Inv where
  cfg_reserved := by decide
  lcfg_reserved := by decide
  busy_iff := by decide
  done_idle := by decide
  err_le := by decide
  shortsub_err := by decide
  error_zero := by decide
  bin_cap := Nat.zero_le _
  tin_cap := Nat.zero_le _
  sout_cap := Nat.zero_le _
  bout_cap := Nat.zero_le _
  dpend_waits := fun _ => ⟨rfl, rfl, rfl, rfl⟩
  running_legal := by decide
  work_bounded := cleared_bounded
  work_collected := fun _ => ⟨rfl, Nat.zero_lt_one, fun h => absurd rfl h, fun h => absurd rfl h⟩
  chk_collect := by decide
  chk_compute := fun _ h => absurd h (by decide)
  outv_sound := fun h => absurd h (by decide)

theorem committing_inv : committing.Inv where
  cfg_reserved := by decide
  lcfg_reserved := by decide
  busy_iff := by decide
  done_idle := by decide
  err_le := by decide
  shortsub_err := by decide
  error_zero := by decide
  bin_cap := Nat.zero_le _
  tin_cap := Nat.zero_le _
  sout_cap := Nat.zero_le _
  bout_cap := Nat.zero_le _
  dpend_waits := fun h => absurd h (by decide)
  running_legal := by decide
  work_bounded := ⟨Nat.zero_le _, Nat.zero_le _, Nat.zero_le _, Nat.two_pow_pos _⟩
  work_collected := fun h => absurd h (by decide)
  chk_collect := by decide
  chk_compute := fun h => absurd h (by decide)
  outv_sound := fun _ =>
    ⟨fun h => absurd rfl h, by decide, by decide, Nat.le_add_left 1 _, Nat.zero_le _⟩

theorem witness_DecodeOfEncodeGivesBack :
    (Instr.wr 0 0).wellFormed = true ∧ (Instr.cmdIllegal 5).wellFormed = true := by decide

theorem witness_EncodeOfDecodeGivesBack : ∃ w i, decode w = .ok i := ⟨0x0300000000, .rd 3, by decide⟩

theorem witness_TableRowDecides :
    (∃ w i, decode w = .ok i) ∧ ∃ w why, decode w = .error why :=
  ⟨⟨0x0300000000, .rd 3, by decide⟩, 0x6000000000, .reservedKind, by decide⟩

theorem witness_WordsThatSpellNothingAreRefused :
    ∃ (s : State) (w : HostWord) (rest : List HostWord) (why : WordError),
      s.turn = .host ∧ s.hostq = w :: rest ∧ decode w = .error why :=
  ⟨{ turnOf .host with hostq := [0x6000000000] }, 0x6000000000, [], .reservedKind, rfl, rfl, by decide⟩

theorem witness_StepRunsDecodedInstruction :
    ∃ (s : State) (w : HostWord) (rest : List HostWord) (i : Instr),
      s.turn = .host ∧ s.hostq = w :: rest ∧ decode w = .ok i :=
  ⟨{ turnOf .host with hostq := [0x4000000000] }, 0x4000000000, [], .pops, rfl, rfl, by decide⟩

theorem witness_PlacedWordRunsNext : (Instr.pushb ⟨1, false⟩).wellFormed = true := by decide

theorem witness_OneAgentMovesAtAStep :
    (∀ t : Turn, (turnOf t).turn = t) ∧ (turnOf .host).hostq = [] := ⟨fun _ => rfl, rfl⟩

theorem witness_WrStoresTheSlotsRegister : 3 ≤ (3 : Slot).toNat ∧ 3 ≤ (7 : Slot).toNat := by decide

theorem witness_CommandWriteIsAcceptedInIdle : State.reset.fsm = .idle ∧ 5 ≤ (5 : Word32).toNat := by decide

theorem witness_CommandWriteIsDroppedWhenBusy :
    waiting.fsm ≠ .idle ∧ ∃ data, (Instr.cmdIllegal 5) = .cmdIllegal data := ⟨by decide, 5, rfl⟩

theorem witness_PushAppendsItsItem :
    State.reset.bin.length < Config.capBin ∧ State.reset.tin.length < Config.capTin :=
  ⟨Config.capBin_ge, Config.capTin_ge⟩

theorem witness_PushAppendsItsItem_last_place :
    ∃ s : State, s.bin.length + 1 = Config.capBin ∧ s.bin.length < Config.capBin ∧
      s.tin.length + 1 = Config.capTin ∧ s.tin.length < Config.capTin :=
  ⟨{ State.reset with
      bin := List.replicate (Config.capBin - 1) ⟨0, false⟩, tin := List.replicate (Config.capTin - 1) absent }, by
    have := Config.capBin_ge
    have := Config.capTin_ge
    simp only [List.length_replicate]
    omega⟩

theorem witness_PopReturnsTheHeadItem :
    ∃ (s : State) (x : SymItem) (y : Byte), s.sout = [x] ∧ s.bout = [y] :=
  ⟨{ State.reset with sout := [⟨0, true⟩], bout := [1] }, _, _, rfl, rfl⟩

theorem witness_PushAndPopWait :
    ∃ s : State, Config.capBin ≤ s.bin.length ∧ Config.capTin ≤ s.tin.length ∧ s.sout = [] ∧ s.bout = [] :=
  ⟨{ State.reset with
      bin := List.replicate Config.capBin ⟨0, false⟩, tin := List.replicate Config.capTin absent }, by simp,
    by simp, rfl, rfl⟩

theorem witness_HostOperationsLeaveTheRunningCommandAlone :
    waiting.fsm ≠ .idle ∧ ∃ t, exec (.wr 0 1) waiting = .next t := ⟨by decide, _, rfl⟩

theorem witness_ResultsChangeOnlyAtCommitOrReset :
    ∃ t, step committing = .next t ∧ t.outlen ≠ committing.outlen :=
  ⟨committing.nextTurn.commit, rfl, by decide⟩

theorem witness_SequencerTransitions :
    (∃ t, step committing = .next t ∧ t.fsm ≠ committing.fsm) ∧
    ∃ s t : State, step s = .next t ∧ t.fsm ≠ s.fsm ∧ s.turn = .host :=
  ⟨⟨committing.nextTurn.commit, rfl, by decide +kernel⟩, { turnOf .host with hostq := [encode .encode] },
    ({ turnOf .host with hostq := [encode .encode] }.nextTurn.cmdWrite .encode).retire, rfl, by decide, rfl⟩

theorem witness_FifosChangeOnlyAtTheirEnds :
    committing.turn ≠ .reset ∧ ∃ t, step committing = .next t ∧ t.sout = [⟨0x1FF, false⟩] :=
  ⟨by decide, committing.nextTurn.commit, rfl, rfl⟩

theorem witness_ComputeDecidesOrAsksForTheDigest :
    ∃ w n c d f : State, (w.fsm = .compute ∧ w.dpend = true) ∧
      (n.fsm = .compute ∧ n.dpend = false ∧ n.work.toCheck n.lop n.lcfg = none) ∧
      (c.fsm = .compute ∧ c.dpend = false ∧ c.work.chkDone = true) ∧
      (d.fsm = .compute ∧ d.dpend = false ∧ d.work.toCheck d.lop d.lcfg = some [] ∧ d.work.chkDone = false ∧
        d.lcfg.getLsbD 0 = true) ∧
      f.fsm = .compute ∧ f.dpend = false ∧ f.work.toCheck f.lop f.lcfg = some [] ∧ f.work.chkDone = false ∧
        f.lcfg.getLsbD 0 = false :=
  ⟨waiting, { waiting with dpend := false, lop := .pack },
    { waiting with dpend := false, work := Work.cleared.setChk 0 }, { waiting with dpend := false },
    { waiting with dpend := false, lcfg := 0 }, ⟨rfl, rfl⟩, ⟨rfl, rfl, rfl⟩, ⟨rfl, rfl, rfl⟩,
    ⟨rfl, rfl, rfl, rfl, rfl⟩, rfl, rfl, rfl, rfl, rfl⟩

theorem witness_ComputeDecidesOrAsksForTheDigest_request :
    ∃ s t : State, step s = .next t ∧ s.dpend = false ∧ t.dpend = true :=
  ⟨{ waiting with dpend := false }, _, rfl, rfl, rfl⟩

/-- 10_state.md R31, 60_exceptions.md R134: `BAD_OPERAND` has code 7, so `STATUS` after it is `DONE` with 7 in bits 7:4. -/
theorem test_bad_operand_status :
    (waiting.status.committed (OutV.fail .badOperand false)).word = 0x72 := by decide

theorem witness_WaitingForTheDigest :
    waiting.Inv ∧ waiting.dpend = true ∧ waiting.turn ≠ .digest ∧ waiting.turn ≠ .reset ∧
      ∃ t, step waiting = .next t :=
  ⟨waiting_inv, rfl, by decide, by decide, _, rfl⟩

theorem witness_CollectFromBin :
    ∃ e b c f : State,
      (e.fsm = .collect ∧ e.lop = .encode ∧ e.bin = []) ∧
      (b.fsm = .collect ∧ b.lop = .checksum ∧ b.bin = [⟨1, false⟩] ∧
        b.work.inb.length + 1 = Config.maxPayload ∧ b.work.inb.length < Config.maxPayload) ∧
      (c.fsm = .collect ∧ c.lop = .pack ∧ c.bin = [⟨1, false⟩] ∧ Config.maxPayload ≤ c.work.inb.length) ∧
      (f.fsm = .collect ∧ f.lop = .pack ∧ f.bin = [⟨1, true⟩]) := by
  refine ⟨collecting .encode Work.cleared,
    { collecting .checksum { Work.cleared with inb := List.replicate (Config.maxPayload - 1) 0 } with
      bin := [⟨1, false⟩] },
    { collecting .pack { Work.cleared with inb := List.replicate Config.maxPayload 0 } with bin := [⟨1, false⟩] },
    { collecting .pack Work.cleared with bin := [⟨1, true⟩] }, ⟨rfl, rfl, rfl⟩, ⟨rfl, rfl, rfl, ?_⟩,
    ⟨rfl, rfl, rfl, ?_⟩, rfl, rfl, rfl⟩
  · have := Config.maxPayload_ge
    simp only [collecting, List.length_replicate]
    omega
  · simp [collecting]

theorem witness_CollectFeedsTheUnpacker :
    ∃ a b : State, ∃ t : Token, t.isEnd = false ∧ t.valid = true ∧ absent.valid = false ∧
      (a.fsm = .collect ∧ a.lop = .unpack ∧ a.tin = [t] ∧ a.work.firstTok = some t ∧
        a.work.stopped = false ∧ a.work.nsym < Config.maxSymbols ∧ a.work.nsym + 1 = Config.maxSymbols) ∧
      b.fsm = .collect ∧ b.lop = .decode ∧ b.tin = [t] ∧ b.work.firstTok = some t ∧
        b.work.stopped = false ∧ Config.maxSymbols ≤ b.work.nsym := by
  refine ⟨{ collecting .unpack
      { Work.cleared with firstTok := some (valid 1), nsym := Config.maxSymbols - 1 } with tin := [valid 1] },
    { collecting .decode { Work.cleared with firstTok := some (valid 1), nsym := Config.maxSymbols } with
      tin := [valid 1] }, valid 1, rfl, rfl, rfl, ⟨rfl, rfl, rfl, rfl, rfl, ?_⟩, rfl, rfl, rfl, rfl, rfl, ?_⟩
  · have := Config.maxSymbols_ge
    simp only [collecting]
    omega
  · simp [collecting]

theorem witness_CollectFeedsTheUnpacker_stopped_and_end :
    ∃ s : State, ∃ t : Token, s.fsm = .collect ∧ s.lop = .unpack ∧ s.tin = [t] ∧ s.work.firstTok = some absent ∧
      s.work.stopped = true ∧ t.isEnd = true :=
  ⟨{ collecting .unpack { Work.cleared with firstTok := some absent, stopped := true } with
      tin := [⟨0, false, false, true⟩] }, _, rfl, rfl, rfl, rfl, rfl, rfl⟩

theorem witness_CollectFeedsTheUnpacker_end_first :
    ∃ s : State, ∃ t : Token, s.fsm = .collect ∧ s.lop = .decode ∧ s.tin = [t] ∧ s.work.firstTok = none ∧
      t.isEnd = true :=
  ⟨{ collecting .decode Work.cleared with tin := [⟨0, false, false, true⟩] }, _, rfl, rfl, rfl, rfl, rfl⟩

theorem witness_CollectKeepsTheFirstToken :
    ∃ s : State, s.fsm = .collect ∧ s.lop = .decode ∧ s.tin = [absent] ∧ absent.isEnd = false ∧
      s.work.firstTok = none ∧ s.lcfg.getLsbD 1 = true ∧ (0 : Word32).getLsbD 1 = false :=
  ⟨{ collecting .decode Work.cleared with tin := [absent], lcfg := 2 }, rfl, rfl, rfl, rfl, rfl, by decide,
    by decide⟩

theorem witness_CommitIsAtomicOrWaits :
    ∃ s t : State, ∃ l, (s.fsm = .commit ∧ s.work.outv.items = .syms l ∧ l.length = 1 ∧
        s.sout.length + s.work.outv.items.toSout.length = Config.capSout ∧
        s.bout.length + s.work.outv.items.toBout.length ≤ Config.capBout) ∧
      t.fsm = .commit ∧ t.work.outv.items = .syms l ∧ Config.capSout < t.sout.length + l.length := by
  refine ⟨{ committing with sout := List.replicate (Config.capSout - 1) ⟨0, false⟩ },
    { committing with sout := List.replicate Config.capSout ⟨0, false⟩ }, [⟨0x1FF, false⟩],
    ⟨rfl, rfl, rfl, ?_, ?_⟩, rfl, rfl, ?_⟩
  · have := Config.capSout_ge
    simp only [committing, OutV.success, OutItems.toSout, List.length_replicate, List.length_singleton]
    omega
  · exact Nat.zero_le _
  · simp

theorem witness_CommitIsAtomicOrWaits_bytes :
    ∃ t : State, ∃ l, t.fsm = .commit ∧ t.work.outv.items = .bytes l ∧ Config.capBout < t.bout.length + l.length :=
  ⟨{ committing with
      bout := List.replicate Config.capBout 0
      work := { Work.cleared with outv := OutV.success 0 0 1 (.bytes [1]) } }, [1], rfl, rfl, by simp⟩

theorem witness_CommitIsEnabledOnEmptyFifos :
    committing.Inv ∧ committing.fsm = .commit ∧ committing.sout = [] ∧ committing.bout = [] :=
  ⟨committing_inv, rfl, rfl, rfl⟩

theorem witness_DigestAnswerGivesTheChecksum : waiting.dpend = true := rfl

theorem witness_ResetAbortsAndLateAnswersAreDiscarded :
    (∃ t, step { waiting with sched := [.reset] } = .next t) ∧
    ∃ t, step { turnOf .lateDigest with late := [[1]] } = .next t := ⟨⟨_, rfl⟩, _, rfl⟩

theorem witness_ChecksumCommandResult :
    ∃ p q : List Byte, p.length = Config.maxPayload ∧ p.length ≤ Config.maxPayload ∧
      Config.maxPayload < q.length ∧ q.length = Config.maxPayload + 1 :=
  ⟨List.replicate Config.maxPayload 0, List.replicate (Config.maxPayload + 1) 0, by simp⟩

theorem witness_PackLaws : 9 % 9 = 0 ∧ 511 < 2 ^ 9 ∧ 0 % 9 = 0 ∧ 0 < 2 ^ 0 := by decide

theorem witness_UnpackInvertsPack :
    9 % 9 = 0 ∧ 511 < 2 ^ 9 ∧
      List.Forall₂ (fun x t => t.valid = true ∧ t.value = x) (pack 511 9) [valid 0x1FF] ∧
      absent.valid = false :=
  ⟨rfl, by decide, .cons ⟨rfl, by decide⟩ .nil, rfl⟩

/-- As many valid tokens as asked for. -/
def valids (n : Nat) : List Token := List.replicate n (valid 0)

theorem valids_length (n : Nat) : ((valids n).takeWhile fun t => t.valid).length = n := by
  simp [valids, valid]

theorem witness_UnpackCommandResult :
    (∃ toks : List Token, (toks.takeWhile fun t => t.valid).length = Config.maxSymbols) ∧
    ∃ toks : List Token, (toks.takeWhile fun t => t.valid).length = Config.maxSymbols + 1 :=
  ⟨⟨valids _, valids_length _⟩, valids _, valids_length _⟩

theorem witness_PacketFields : ([1] : List Byte)[0]? = some 1 := rfl

theorem witness_PaddingAndLengthClosedForms :
    (List.replicate 9 0 : List Byte).length = ([] : List Byte).length + 9 := rfl

theorem witness_EncodedLength :
    ∃ p : List Byte, p.length = Config.maxPayload ∧ p.length ≤ Config.maxPayload :=
  ⟨List.replicate Config.maxPayload 0, by simp⟩

theorem witness_EncodeCommandResult :
    ∃ p q : List Byte, p.length = Config.maxPayload ∧ q.length = Config.maxPayload + 1 :=
  ⟨List.replicate Config.maxPayload 0, List.replicate (Config.maxPayload + 1) 0, by simp⟩

theorem witness_DecodeInvertsEncode :
    ([0x41] : List Byte).length ≤ Config.maxPayload ∧
      List.Forall₂ Faithful (packetEncode (csel 2) (pfx 2) [0x41])
        [⟨0, false, true, false⟩, valid 0x058, valid 0x1CA, valid 0x104] ∧
      StopsUnpacker [absent, valid 5] ∧ StopsUnpacker [] := by
  have he : packetEncode (csel 2) (pfx 2) [0x41] =
      [⟨0, true⟩, ⟨0x058, false⟩, ⟨0x1CA, false⟩, ⟨0x104, false⟩] := by decide +kernel
  refine ⟨le_trans (by decide) Config.maxPayload_ge, ?_, ?_, ?_⟩
  · rw [he]
    exact .cons ⟨by decide, by decide⟩ (.cons ⟨by decide, by decide⟩
      (.cons ⟨by decide, by decide⟩ (.cons ⟨by decide, by decide⟩ .nil)))
  · rintro t ⟨⟩
    rfl
  · rintro t ⟨⟩

theorem witness_DecodeFirstChecks :
    ((4 : Word32).getLsbD 1 = false ∧ (4 : Word32).getLsbD 2 = true) ∧
    ((6 : Word32).getLsbD 1 = true ∧ (0 : Word32).getLsbD 2 = false) ∧
    (valid 0).sent = false ∧ (⟨0, false, true, false⟩ : Token).sent = true ∧
    Config.maxSymbols < ((valids (Config.maxSymbols + 1)).takeWhile fun t => t.valid).length := by
  refine ⟨by decide, by decide, rfl, rfl, ?_⟩
  rw [valids_length]
  exact Nat.lt_succ_self _

theorem witness_DecodeShortPacket :
    (((0 : Word32).getLsbD 1 = true) → absent.sent = true) ∧
    (([absent].takeWhile fun t => t.valid).length = 0) ∧
    (([valid 0x03B].takeWhile fun t => t.valid).length = 1) ∧
    (([valid 0x03B, valid 0].takeWhile fun t => t.valid).length = 2) := by decide

theorem witness_DecodeVerifiesTheChecksum :
    (∃ bytes retrieved consumed,
      parseTokens 0 [valid 0, valid 0] = .packet bytes retrieved consumed ∧
      checksum (csel 0) bytes = retrieved) ∧
    ∃ bytes retrieved consumed,
      parseTokens 0 [valid 0x100, valid 0x055] = .packet bytes retrieved consumed ∧
      checksum (csel 0) bytes ≠ retrieved :=
  ⟨⟨[], 0, 2, by decide +kernel⟩, [], 0x002A, 2, by decide +kernel⟩

/-- (a) fast `"A"` and the same with its last padding bits set; (b) the same with its parity bit set. -/
theorem witness_DecodeDoesNotCheck :
    let u := unpack [valid 0x058, valid 0x1CA, valid 0x104]
    let v := unpack [valid 0x058, valid 0x1CA, valid 0x107]
    let w := unpack [valid 0x158, valid 0x1CA, valid 0x104]
    (u.nbits = v.nbits ∧ u.nsym = v.nsym ∧ paddingBits false u ≤ payloadBitsPadded false u ∧
      u.acc >>> paddingBits false u = v.acc >>> paddingBits false u ∧ u ≠ v) ∧
    u.nbits = w.nbits ∧ u.nsym = w.nsym ∧ payloadBitsPadded false u % 8 ≠ 0 ∧
      u.acc % 2 ^ (u.nbits - 1) = w.acc % 2 ^ (u.nbits - 1) ∧ u.acc < 2 ^ u.nbits ∧ w.acc < 2 ^ w.nbits ∧
      u ≠ w := by decide +kernel

theorem witness_RecoveredBytesAreThePayload :
    parseBits false 0 (unpack [valid 0x058, valid 0x1CA, valid 0x104]) = .packet [0x41] 0x58E5 3 := by
  decide +kernel

theorem witness_DecodeCommandResult :
    packetDecode 0 [valid 0, valid 0] = .ok [] 2 0 ∧ packetDecode 0 [absent] = .err .shortPacket true := by
  decide +kernel

theorem witness_CollectedRegistersGiveThePureFunction :
    Cmd.encode.inPort = .bin ∧ Cmd.checksum.inPort = .bin ∧ Cmd.pack.inPort = .bin ∧
      Cmd.decode.inPort = .tin ∧ Cmd.unpack.inPort = .tin := by decide

theorem witness_BinCommandsCommitTheirPureFunction :
    ∃ s : State, s.fsm = .idle ∧ s.dpend = false ∧ s.hostq = encode .checksum :: [] ∧
      s.bin = (([0x41] : List Byte).map fun b => { byte := b, isEnd := false }) ++ ⟨0, true⟩ :: [] ∧
      s.sched = .host :: commandTurns ([0x41] : List Byte).length ++ [] ∧
      s.hasRoom (binCommand .checksum s.cfg s.arg [0x41]).items = true :=
  ⟨{ State.reset with
      hostq := [encode .checksum], bin := [⟨0x41, false⟩, ⟨0, true⟩], sched := .host :: commandTurns 1 },
    rfl, rfl, rfl, rfl, rfl, by decide +kernel⟩

theorem witness_BinCommandsCommitTheirPureFunction_encode_and_pack :
    ∃ s u : State, (s.fsm = .idle ∧ s.dpend = false ∧ s.hostq = encode .encode :: [] ∧
        s.bin = (([0x41] : List Byte).map fun b => { byte := b, isEnd := false }) ++ ⟨0, true⟩ :: [] ∧
        s.sched = .host :: commandTurns ([0x41] : List Byte).length ++ [] ∧
        s.hasRoom (binCommand .encode s.cfg s.arg [0x41]).items = true) ∧
      u.fsm = .idle ∧ u.dpend = false ∧ u.hostq = encode .pack :: [] ∧
        u.bin = (([0x41] : List Byte).map fun b => { byte := b, isEnd := false }) ++ ⟨0, true⟩ :: [] ∧
        u.sched = .host :: commandTurns ([0x41] : List Byte).length ++ [] ∧
        u.hasRoom (binCommand .pack u.cfg u.arg [0x41]).items = true :=
  ⟨{ State.reset with
      hostq := [encode .encode], bin := [⟨0x41, false⟩, ⟨0, true⟩], sched := .host :: commandTurns 1 },
    { State.reset with
      arg := 9, hostq := [encode .pack], bin := [⟨0x41, false⟩, ⟨0, true⟩], sched := .host :: commandTurns 1 },
    ⟨rfl, rfl, rfl, rfl, rfl, by decide +kernel⟩, rfl, rfl, rfl, rfl, rfl, by decide +kernel⟩

theorem witness_TinCommandsCommitTheirPureFunction :
    ∃ s : State, s.fsm = .idle ∧ s.dpend = false ∧ s.hostq = encode .decode :: [] ∧
      s.tin = [valid 0, valid 0] ++ ⟨0, false, false, true⟩ :: [] ∧
      (∀ t ∈ [valid 0, valid 0], t.isEnd = false) ∧
      s.sched = .host :: commandTurns [valid 0, valid 0].length ++ [] ∧
      s.hasRoom (tinCommand .decode s.cfg [valid 0, valid 0]).items = true :=
  ⟨{ State.reset with
      hostq := [encode .decode], tin := [valid 0, valid 0, ⟨0, false, false, true⟩],
      sched := .host :: commandTurns 2 },
    rfl, rfl, rfl, rfl, by decide, rfl, by decide +kernel⟩

theorem witness_TinCommandsCommitTheirPureFunction_unpack :
    ∃ s : State, s.fsm = .idle ∧ s.dpend = false ∧ s.hostq = encode .unpack :: [] ∧
      s.tin = [valid 1] ++ ⟨0, false, false, true⟩ :: [] ∧ (∀ t ∈ [valid 1], t.isEnd = false) ∧
      s.sched = .host :: commandTurns [valid 1].length ++ [] ∧
      s.hasRoom (tinCommand .unpack s.cfg [valid 1]).items = true :=
  ⟨{ State.reset with
      hostq := [encode .unpack], tin := [valid 1, ⟨0, false, false, true⟩], sched := .host :: commandTurns 1 },
    rfl, rfl, rfl, rfl, by decide, rfl, by decide +kernel⟩

theorem witness_IllegalCommandCommitsErrorSix :
    ∃ s : State, 5 ≤ (5 : Word32).toNat ∧ s.fsm = .idle ∧ s.hostq = encode (.cmdIllegal 5) :: [] ∧
      s.sched = .host :: .core :: [] :=
  ⟨{ State.reset with hostq := [encode (.cmdIllegal 5)], sched := [.host, .core] }, by decide, rfl, rfl, rfl⟩

theorem witness_ScheduleDoesNotChangeTheResult :
    (∃ o, waiting.expected = some o) ∧ waiting.Inv ∧ waiting.turn ≠ .reset ∧ (∃ t, step waiting = .next t) ∧
    (∃ o, committing.expected = some o) ∧ committing.Inv ∧ committing.turn ≠ .reset ∧
      ∃ t, step committing = .next t :=
  ⟨⟨_, rfl⟩, waiting_inv, by decide, ⟨_, rfl⟩, ⟨_, rfl⟩, committing_inv, by decide,
    committing.nextTurn.commit, rfl⟩

theorem witness_EveryStepKeepsTheInvariant : waiting.Inv ∧ ∃ t, step waiting = .next t :=
  ⟨waiting_inv, _, rfl⟩

theorem witness_LeftOverRegistersDoNotMatter :
    ∃ a b : State, a ≠ b ∧ a.visible = b.visible ∧ (∃ s, step a = .next s) ∧ ∃ t, step b = .next t :=
  ⟨turnOf .core, { turnOf .core with lcfg := 5, work := { Work.cleared with nsym := 3 } }, by decide, rfl,
    ⟨_, rfl⟩, _, rfl⟩

theorem witness_LeftOverRegistersDoNotMatter_refused :
    ∃ a : State, ∃ why, step a = .refused why :=
  ⟨{ turnOf .host with hostq := [0x6000000000] }, .badHostWord .reservedKind, by rfl⟩

theorem witness_BusyIsFiniteUnlessWaiting :
    ∃ b d c m : State, (b.HostSpells ∧ b.fsm = .collect ∧ b.expected.isSome = true) ∧
      (d.HostSpells ∧ d.fsm = .collect ∧ d.expected.isSome = true) ∧
      (c.HostSpells ∧ c.fsm = .compute ∧ c.dpend = false) ∧
      m.HostSpells ∧ m.fsm = .commit ∧ m.hasRoom m.work.outv.items = true :=
  ⟨{ collecting .pack Work.cleared with bin := [⟨1, false⟩, ⟨0, true⟩] },
    { collecting .decode Work.cleared with tin := [⟨0, false, false, true⟩] }, { waiting with dpend := false },
    committing, ⟨nofun, rfl, rfl⟩, ⟨nofun, rfl, rfl⟩, ⟨nofun, rfl, rfl⟩, nofun, rfl, by decide +kernel⟩

theorem witness_BusyIsFiniteUnlessWaiting_host_word :
    { State.reset with hostq := [encode .encode] }.HostSpells := by
  intro w hw
  exact ⟨.encode, by rw [List.mem_singleton.1 hw]; decide⟩

end Sys2Proof.Tests
end

section
/-! Proofs of the statements from 00_scope.md: what the capacities of R6 are there for. -/

namespace Sys2Proof.Machine

/-- Sound output finds room in empty output FIFOs: `CAP_SOUT` and `CAP_BOUT` are at least the longest output (R6). -/
theorem OutV.Sound.hasRoom_of_empty {o : OutV} (ho : o.Sound) {s : State} (hsout : s.sout = [])
    (hbout : s.bout = []) : s.hasRoom o.items = true := by
  have hs : o.items.toSout.length ≤ Config.capSout := ho.sout_fits.trans Config.capSout_ge
  have hb : o.items.toBout.length ≤ Config.capBout := ho.bout_fits.trans Config.capBout_ge
  cases hi : o.items with
  | none => rfl
  | syms l => simpa [State.hasRoom, hsout, hi, OutItems.toSout] using hs
  | bytes l => simpa [State.hasRoom, hbout, hi, OutItems.toBout] using hb

/-- A commit that finds room ends the command (R130). -/
theorem State.commit_fsm_of_hasRoom {s : State} (h : s.hasRoom s.work.outv.items = true) :
    s.commit.fsm = .idle := by
  obtain ⟨-, hc⟩ | ⟨hfull, -⟩ := s.commit_cases
  · rw [hc]
  · exact absurd (h.symm.trans hfull) (by decide)

/-- In `COMMIT` the core's step is the commit (R23). -/
theorem State.coreStep_of_commit {s : State} (h : s.fsm = .commit) : s.coreStep = s.commit := by
  simp [State.coreStep, h]

/-- Settles O27: in `COMMIT` the invariant makes `OUTV` sound, so it fits and the commit takes place. -/
theorem commitIsEnabledOnEmptyFifos : Obligations.CommitIsEnabledOnEmptyFifos := by
  intro s hinv hfsm hsout hbout
  rw [State.coreStep_of_commit hfsm]
  exact State.commit_fsm_of_hasRoom ((hinv.outv_sound hfsm).hasRoom_of_empty hsout hbout)

end Sys2Proof.Machine
end

section
/-! Proofs of the statements from 10_state.md: the invariant holds at reset and every step keeps it. -/

namespace Sys2Proof.Machine

variable {s t : State} {i : Instr}

/-! ### The working registers -/

namespace Work

@[simp] theorem toCheck_setChk (w : Work) (k : Chk) (c : Cmd) (lcfg : Word32) :
    (w.setChk k).toCheck c lcfg = w.toCheck c lcfg := by
  cases c <;> rfl

theorem cleared_bounded : Work.cleared.Bounded where
  inb_le := Nat.zero_le _
  nsym_le := Nat.zero_le _
  nbits_le := Nat.zero_le _
  acc_lt := Nat.two_pow_pos _

theorem cleared_collected : Work.cleared.Collected where
  nbits_nsym := rfl
  acc_nbits := Nat.one_pos
  sym_full := fun h => absurd rfl h
  byte_full := fun h => absurd rfl h

theorem leftOver_bounded (n : Nat) : (Work.leftOver n).Bounded where
  inb_le := by simpa only [leftOver] using List.length_take_le _ _
  nsym_le := by simpa only [leftOver] using Nat.min_le_right _ _
  nbits_le := by simpa only [leftOver] using Nat.min_le_right _ _
  acc_lt := by simpa only [leftOver] using Nat.mod_lt _ (Nat.two_pow_pos _)

/-- A data byte is kept, or only counted (R128). -/
theorem keepByte_cases (w : Work) (b : Byte) :
    (w.inb.length < Config.maxPayload ∧ w.keepByte b = { w with inb := w.inb ++ [b] }) ∨
    (Config.maxPayload ≤ w.inb.length ∧ w.keepByte b = { w with byteOver := w.byteOver + 1 }) := by
  by_cases h : w.inb.length < Config.maxPayload
  · exact .inl ⟨h, by simp [keepByte, h]⟩
  · exact .inr ⟨Nat.le_of_not_lt h, by simp [keepByte, h]⟩

/-- A token fed to the unpacker: it has stopped, stops here, takes the value in, or only counts it (R95, R128). -/
theorem feed_cases (w : Work) (t : Token) :
    w.feed t = w ∨ w.feed t = { w with stopped := true } ∨
    (w.nsym < Config.maxSymbols ∧
      w.feed t =
        { w with
          acc := w.acc * 512 + t.value.toNat
          nbits := w.nbits + 9
          nsym := w.nsym + 1 }) ∨
    (Config.maxSymbols ≤ w.nsym ∧ w.feed t = { w with symOver := w.symOver + 1 }) := by
  rcases hs : w.stopped with _ | _
  · rcases hv : t.valid with _ | _
    · exact .inr (.inl (by simp [feed, hs, hv]))
    · by_cases h : w.nsym < Config.maxSymbols
      · refine .inr (.inr (.inl ⟨h, ?_⟩))
        simp [feed, hs, hv, h, Unpacked.push_acc, unpacked]
      · exact .inr (.inr (.inr ⟨Nat.le_of_not_lt h, by simp [feed, hs, hv, h]⟩))
  · exact .inl (by simp [feed, hs])

/-- A token of a `TIN` command is fed, kept as the first one, or both (R128). -/
theorem takeToken_cases (w : Work) (c : Cmd) (lcfg : Word32) (t : Token) :
    w.takeToken c lcfg t = w.feed t ∨ w.takeToken c lcfg t = { w with firstTok := some t } ∨
      w.takeToken c lcfg t = { w with firstTok := some t }.feed t := by
  rcases hf : w.firstTok with _ | u
  · by_cases hp : c = .decode ∧ pfx lcfg
    · exact .inr (.inl (by simp [takeToken, hf, hp]))
    · exact .inr (.inr (by simp [takeToken, hf, hp]))
  · exact .inl (by simp [takeToken, hf])

/-- What holds of the working registers in `COLLECT`. -/
structure Collecting (w : Work) : Prop where
  bounded : w.Bounded
  collected : w.Collected
  chkDone : w.chkDone = false

theorem cleared_collecting : Work.cleared.Collecting :=
  ⟨cleared_bounded, cleared_collected, rfl⟩

theorem Collecting.keepByte {w : Work} (h : w.Collecting) (b : Byte) : (w.keepByte b).Collecting := by
  obtain ⟨hb, hc, hk⟩ := h
  rcases w.keepByte_cases b with ⟨hlt, e⟩ | ⟨hge, e⟩ <;> rw [e]
  · have hfull : w.byteOver = 0 := by
      by_contra hover
      exact absurd (hc.byte_full hover) (Nat.ne_of_lt hlt)
    exact ⟨{ hb with inb_le := by simpa using hlt },
      { hc with byte_full := fun h => absurd hfull h }, hk⟩
  · exact ⟨{ hb with }, { hc with byte_full := fun _ => Nat.le_antisymm hb.inb_le hge }, hk⟩

theorem Collecting.feed {w : Work} (h : w.Collecting) (t : Token) : (w.feed t).Collecting := by
  obtain ⟨hb, hc, hk⟩ := h
  rcases w.feed_cases t with e | e | ⟨hlt, e⟩ | ⟨hge, e⟩ <;> rw [e]
  · exact ⟨hb, hc, hk⟩
  · exact ⟨{ hb with }, { hc with }, hk⟩
  · have hn := hc.nbits_nsym
    have hacc : w.acc * 512 + t.value.toNat < 2 ^ (w.nbits + 9) := by
      have ha := hc.acc_nbits
      have hv : t.value.toNat < 512 := t.value.isLt
      rw [Nat.pow_add]
      omega
    have hle : w.nbits + 9 ≤ 9 * Config.maxSymbols := by omega
    have hfull : w.symOver = 0 := by
      by_contra hover
      exact absurd (hc.sym_full hover) (Nat.ne_of_lt hlt)
    exact ⟨{ hb with
        nsym_le := hlt, nbits_le := hle
        acc_lt := hacc.trans_le (Nat.pow_le_pow_right Nat.two_pos hle) },
      { hc with
        nbits_nsym := by simp only [hn]; omega
        acc_nbits := hacc
        sym_full := fun h => absurd hfull h }, hk⟩
  · exact ⟨{ hb with }, { hc with sym_full := fun _ => Nat.le_antisymm hb.nsym_le hge }, hk⟩

theorem Collecting.takeToken {w : Work} (h : w.Collecting) (c : Cmd) (lcfg : Word32) (t : Token) :
    (w.takeToken c lcfg t).Collecting := by
  obtain ⟨hb, hc, hk⟩ := h
  have hfirst : { w with firstTok := some t }.Collecting := ⟨{ hb with }, { hc with }, hk⟩
  rcases w.takeToken_cases c lcfg t with e | e | e <;> rw [e]
  · exact Collecting.feed ⟨hb, hc, hk⟩ t
  · exact hfirst
  · exact hfirst.feed t

end Work

/-! ### Sound output -/

theorem OutV.fail_sound {e : ErrKind} {sub : Bool} (h : sub = true → e = .shortPacket) :
    (OutV.fail e sub).Sound where
  error_zero := fun _ => ⟨rfl, rfl, rfl, rfl⟩
  shortsub_short := h
  outlen_counts := rfl
  sout_fits := Nat.zero_le _
  bout_fits := Nat.zero_le _

/-- Success is sound when `OUTLEN` counts the items and they fit; `OUTLEN` does not wrap, for `S < 2^28`. -/
theorem OutV.success_sound {result consumed outlen : Nat} {items : OutItems}
    (hlen : outlen = items.toSout.length + items.toBout.length)
    (hs : items.toSout.length ≤ Config.maxSymbols + 1)
    (hb : items.toBout.length ≤ (9 * Config.maxSymbols + 7) / 8) :
    (OutV.success result consumed outlen items).Sound where
  error_zero := fun h => absurd rfl h
  shortsub_short := nofun
  outlen_counts := by
    have hS := Config.maxSymbols_lt
    simp only [OutV.success, BitVec.toNat_ofNat]
    rw [Nat.mod_eq_of_lt (by omega), hlen]
  sout_fits := hs
  bout_fits := hb

theorem OutV.success_syms_sound {result consumed : Nat} {l : List SymItem}
    (h : l.length ≤ Config.maxSymbols + 1) : (OutV.success result consumed l.length (.syms l)).Sound :=
  OutV.success_sound rfl h (Nat.zero_le _)

theorem OutV.success_bytes_sound {result consumed : Nat} {l : List Byte}
    (h : l.length ≤ (9 * Config.maxSymbols + 7) / 8) :
    (OutV.success result consumed l.length (.bytes l)).Sound :=
  OutV.success_sound (Nat.zero_add _).symm (Nat.zero_le _) h

theorem checksumOut_sound (tooMany : Bool) (chk : Chk) : (checksumOut tooMany chk).Sound := by
  cases tooMany
  · exact OutV.success_sound rfl (Nat.zero_le _) (Nat.zero_le _)
  · exact OutV.fail_sound nofun

theorem packOut_sound (tooMany : Bool) (q : List Byte) (L : Nat) : (packOut tooMany q L).Sound := by
  unfold packOut
  split_ifs with _ _ _ hS
  · exact OutV.fail_sound nofun
  · exact OutV.fail_sound nofun
  · exact OutV.fail_sound nofun
  · exact OutV.fail_sound nofun
  · have hlen : ((pack (intBe q) L).map symItem).length = L / 9 := by simp
    rw [← hlen]
    exact OutV.success_syms_sound (by omega)

/-- The packet of at most `P` bytes, with its sentinel, has at most `S + 1` items: what R6's bound of `P` by `S` is
for. -/
theorem packetWith_length_le (strong pfxOn : Bool) (chk : Chk) {p : List Byte}
    (hp : p.length ≤ Config.maxPayload) :
    (packetWith strong pfxOn chk p).length ≤ Config.maxSymbols + 1 := by
  have hS := Config.maxPayload_le
  have hpad := packet_aligned strong p
  have hlt := padding_lt strong p
  have hbits : totalBits strong p ≤ 18 + 8 * p.length := by
    cases strong <;> simp [totalBits, codecWidth]
  have hpfx : (if pfxOn then [sentinelItem] else []).length ≤ 1 := by cases pfxOn <;> simp
  simp only [packetWith, List.length_append, List.length_map, pack_length]
  omega

theorem encodeOut_sound (tooMany : Bool) (lcfg : Word32) (chk : Chk) {p : List Byte}
    (hp : p.length ≤ Config.maxPayload) : (encodeOut tooMany lcfg chk p).Sound := by
  cases tooMany
  · exact OutV.success_syms_sound (packetWith_length_le _ _ chk hp)
  · exact OutV.fail_sound nofun

theorem unpackOut_sound (tooMany : Bool) {u : Unpacked} (hu : u.nbits ≤ 9 * Config.maxSymbols) :
    (unpackOut tooMany u).Sound := by
  cases tooMany
  · have hlen := beBytes_length u.acc ((u.nbits + 7) / 8)
    have h : (beBytes u.acc ((u.nbits + 7) / 8)).length ≤ (9 * Config.maxSymbols + 7) / 8 := by omega
    have hs := OutV.success_bytes_sound (result := u.nbits) (consumed := u.nsym) h
    rwa [hlen] at hs
  · exact OutV.fail_sound nofun

/-- What the commit of `DECODE` needs of where steps 1 to 9 of R106 end: `SHORTSUB` belongs to `SHORT_PACKET`, and the
recovered bytes fit into an empty `BOUT`. -/
def Parse.Fits (p : Parse) : Prop :=
  match p with
  | .emptyShortcut => True
  | .error kind sub => sub = true → kind = .shortPacket
  | .packet bytes _ _ => bytes.length ≤ (9 * Config.maxSymbols + 7) / 8

theorem Parse.Fits.verify_sound {p : Parse} (h : p.Fits) (chk : Chk) : (p.verify chk).toOutV.Sound := by
  cases p with
  | emptyShortcut => exact OutV.success_bytes_sound (l := []) (Nat.zero_le _)
  | error kind sub => exact OutV.fail_sound h
  | packet bytes retrieved consumed =>
    by_cases hc : chk = retrieved
    · simp only [Parse.verify, hc, if_true]
      exact OutV.success_bytes_sound h
    · simp only [Parse.verify, hc, if_false]
      exact OutV.fail_sound nofun

theorem recoveredBytes_length_le (strong : Bool) (u : Unpacked) :
    (recoveredBytes strong u).length ≤ u.nbits / 8 := by
  simp only [recoveredBytes, beBytes_length, payloadBitsPadded]
  omega

theorem parseBits_fits (strong : Bool) (start : Nat) {u : Unpacked} (hu : u.nbits ≤ 9 * Config.maxSymbols) :
    (parseBits strong start u).Fits := by
  unfold parseBits
  split_ifs
  · exact fun _ => rfl
  · exact nofun
  · exact nofun
  · have hlen := recoveredBytes_length_le strong u
    simp only [Parse.Fits]
    omega

theorem parsePacket_fits (lcfg : Word32) (first : Option Token) (tooMany : Bool) {u : Unpacked}
    (hu : u.nbits ≤ 9 * Config.maxSymbols) : (parsePacket lcfg first tooMany u).Fits := by
  unfold parsePacket
  split
  · split_ifs
    · trivial
    · exact nofun
  · split_ifs
    · exact nofun
    · exact nofun
    · exact parseBits_fits _ _ hu
    · exact parseBits_fits _ _ hu

/-- Every command's pure function over bounded working registers gives sound output. -/
theorem Work.Bounded.outcome_sound {w : Work} (h : w.Bounded) (c : Cmd) (lcfg larg : Word32) (chk : Chk) :
    (w.outcome c lcfg larg chk).Sound := by
  cases c with
  | encode => exact encodeOut_sound _ _ _ h.inb_le
  | decode => exact (parsePacket_fits _ _ _ h.nbits_le).verify_sound _
  | checksum => exact checksumOut_sound _ _
  | pack => exact packOut_sound _ _ _
  | unpack => exact unpackOut_sound _ h.nbits_le
  | illegal => exact OutV.fail_sound nofun

/-! ### The invariant step by step -/

theorem cfgStored_lt (v : Word32) : (cfgStored v).toNat < 8 := by
  have h := (v.extractLsb' 0 3).isLt
  simp only [cfgStored, BitVec.toNat_setWidth]
  omega

/-- A FIFO whose head is popped stays within its capacity. -/
theorem length_le_of_cons {α : Type} {l rest : List α} {x : α} {n : Nat} (h : l = x :: rest) (hl : l.length ≤ n) :
    rest.length ≤ n := by
  rw [h, List.length_cons] at hl
  exact Nat.le_of_succ_le hl

namespace State.Inv

theorem reset : State.reset.Inv where
  cfg_reserved := by decide
  lcfg_reserved := by decide
  busy_iff := by decide
  done_idle := by decide
  err_le := by decide
  shortsub_err := by decide
  error_zero := by decide
  bin_cap := Nat.zero_le _
  tin_cap := Nat.zero_le _
  sout_cap := Nat.zero_le _
  bout_cap := Nat.zero_le _
  dpend_waits := by decide
  running_legal := by decide
  work_bounded := Work.cleared_bounded
  work_collected := fun _ => Work.cleared_collected
  chk_collect := by decide
  chk_compute := by decide
  outv_sound := nofun

theorem dpend_of_not_compute (h : s.Inv) (hfsm : s.fsm ≠ .compute) : s.dpend = false := by
  by_contra hd
  exact hfsm (h.dpend_waits (by simpa using hd)).1

theorem busy_of_not_idle (h : s.Inv) (hfsm : s.fsm ≠ .idle) : s.status.busy = true :=
  h.busy_iff.2 hfsm

theorem start (h : s.Inv) (hidle : s.fsm = .idle) (c : Cmd) : (s.start c).Inv := by
  have hd : s.dpend = false := h.dpend_of_not_compute (by simp [hidle])
  rcases s.start_cases c with ⟨-, e⟩ | ⟨hc, e⟩ <;> rw [e]
  · exact { h with
      lcfg_reserved := h.cfg_reserved
      busy_iff := by simp
      done_idle := by simp
      dpend_waits := by simp [hd]
      running_legal := by simp
      work_bounded := { h.work_bounded with }
      work_collected := by simp
      chk_collect := by simp
      chk_compute := by simp
      outv_sound := fun _ => OutV.fail_sound nofun }
  · exact { h with
      lcfg_reserved := h.cfg_reserved
      busy_iff := by simp
      done_idle := by simp
      dpend_waits := by simp [hd]
      running_legal := fun _ => hc
      work_bounded := Work.cleared_bounded
      work_collected := fun _ => Work.cleared_collected
      chk_collect := fun _ => rfl
      chk_compute := by simp
      outv_sound := by simp }

theorem cmdWrite (h : s.Inv) (c : Cmd) : (s.cmdWrite c).Inv := by
  rcases s.cmdWrite_cases c with ⟨hidle, e⟩ | ⟨-, e⟩ <;> rw [e]
  · exact h.start hidle c
  · exact { h with }

theorem exec (h : s.Inv) (he : Machine.exec i s = .next t) : t.Inv := by
  rcases exec_cases he with rfl | ⟨_, rfl⟩ | ⟨v, rfl⟩ | ⟨c, rfl⟩ | ⟨_, rfl⟩ | rfl | ⟨x, hlt, rfl⟩ | ⟨x, hlt, rfl⟩ |
    ⟨x, rest, hs, rfl⟩ | ⟨x, rest, hs, rfl⟩
  · exact h
  · exact { h with }
  · exact { h with cfg_reserved := cfgStored_lt v }
  · exact { h.cmdWrite c with }
  · exact { h with }
  · exact { h with }
  · exact { h with bin_cap := by simpa using hlt }
  · exact { h with tin_cap := by simpa using hlt }
  · exact { h with sout_cap := length_le_of_cons hs h.sout_cap }
  · exact { h with bout_cap := length_le_of_cons hs h.bout_cap }

theorem collecting (h : s.Inv) (hfsm : s.fsm = .collect) : s.work.Collecting :=
  ⟨h.work_bounded, h.work_collected (.inl hfsm), h.chk_collect hfsm⟩

/-- The end marker: `COLLECT` hands over to `COMPUTE`, with the popped FIFO shorter. -/
theorem endInput (h : s.Inv) (hfsm : s.fsm = .collect) {bin : List BinItem} {tin : List Token}
    (hbin : bin.length ≤ Config.capBin) (htin : tin.length ≤ Config.capTin) :
    { s with bin := bin, tin := tin, fsm := .compute }.Inv :=
  have hd : s.dpend = false := h.dpend_of_not_compute (by simp [hfsm])
  have hk := h.chk_collect hfsm
  { h with
    busy_iff := by simp [h.busy_of_not_idle, hfsm]
    done_idle := fun hdone => absurd (h.done_idle hdone) (by simp [hfsm])
    bin_cap := hbin
    tin_cap := htin
    dpend_waits := by simp [hd]
    running_legal := fun _ => h.running_legal (.inl hfsm)
    work_collected := fun _ => h.work_collected (.inl hfsm)
    chk_collect := by simp
    chk_compute := by simp [hk]
    outv_sound := by simp }

/-- A collected item: the working registers stay those of a command that collects, with the popped FIFO shorter. -/
theorem takeInput (h : s.Inv) (hfsm : s.fsm = .collect) {bin : List BinItem} {tin : List Token} {w : Work}
    (hbin : bin.length ≤ Config.capBin) (htin : tin.length ≤ Config.capTin) (hw : w.Collecting) :
    { s with bin := bin, tin := tin, work := w }.Inv :=
  have hd : s.dpend = false := h.dpend_of_not_compute (by simp [hfsm])
  { h with
    bin_cap := hbin
    tin_cap := htin
    dpend_waits := by simp [hd]
    work_bounded := hw.bounded
    work_collected := fun _ => hw.collected
    chk_collect := fun _ => hw.chkDone
    chk_compute := by simp [hfsm]
    outv_sound := by simp [hfsm] }

theorem collect (h : s.Inv) (hfsm : s.fsm = .collect) : s.collect.Inv := by
  rcases s.collect_cases with e | ⟨-, x, rest, hb, hx⟩ | ⟨-, x, rest, hb, hx⟩
  · rwa [e]
  · have hcap : rest.length ≤ Config.capBin := length_le_of_cons hb h.bin_cap
    rcases hx with ⟨-, e⟩ | ⟨-, e⟩ <;> rw [e]
    · exact h.endInput hfsm hcap h.tin_cap
    · exact h.takeInput hfsm hcap h.tin_cap ((h.collecting hfsm).keepByte _)
  · have hcap : rest.length ≤ Config.capTin := length_le_of_cons hb h.tin_cap
    rcases hx with ⟨-, e⟩ | ⟨-, e⟩ <;> rw [e]
    · exact h.endInput hfsm h.bin_cap hcap
    · exact h.takeInput hfsm h.bin_cap hcap ((h.collecting hfsm).takeToken _ _ _)

theorem finish (h : s.Inv) (hfsm : s.fsm = .compute) (hd : s.dpend = false) : s.finish.Inv :=
  { h with
    busy_iff := by simp [h.busy_of_not_idle, hfsm]
    done_idle := fun hdone => absurd (h.done_idle hdone) (by simp [hfsm])
    dpend_waits := by simp [hd]
    running_legal := by simp
    work_bounded := { h.work_bounded with }
    work_collected := by simp
    chk_collect := by simp
    chk_compute := by simp
    outv_sound := fun _ => h.work_bounded.outcome_sound _ _ _ _ }

theorem askDigest (h : s.Inv) (hfsm : s.fsm = .compute) {q : List Byte} (hstrong : csel s.lcfg = true)
    (hq : s.work.toCheck s.lop s.lcfg = some q) (hk : s.work.chkDone = false) : (s.askDigest q).Inv :=
  { h with dpend_waits := fun _ => ⟨hfsm, hstrong, hk, hq⟩ }

/-- The checksum the command needs arrives, and no request is outstanding any more. -/
theorem takeChecksum (h : s.Inv) (hfsm : s.fsm = .compute) {q dreq : List Byte}
    (hq : s.work.toCheck s.lop s.lcfg = some q) {d : Bool} (hd : d = false) {c : Chk}
    (hc : c = checksum (csel s.lcfg) q) :
    { s with dpend := d, dreq := dreq, work := s.work.setChk c }.Inv :=
  { h with
    dpend_waits := by simp [hd]
    work_bounded := { h.work_bounded with }
    work_collected := fun hr => { h.work_collected hr with }
    chk_collect := by simp [hfsm]
    chk_compute := fun _ _ => ⟨q, by simpa using hq, hc⟩
    outv_sound := by simp [hfsm] }

theorem compute (h : s.Inv) (hfsm : s.fsm = .compute) : s.compute.Inv := by
  rcases s.compute_cases with ⟨-, e⟩ | ⟨hd, e, -⟩ | ⟨q, hd, hq, hk, ⟨hstrong, e⟩ | ⟨hfast, e⟩⟩ <;> rw [e]
  · exact h
  · exact h.finish hfsm hd
  · exact h.askDigest hfsm hstrong hq hk
  · exact h.takeChecksum hfsm hq hd (by rw [hfast])

theorem digestAnswer (h : s.Inv) : s.digestAnswer.Inv := by
  rcases s.digestAnswer_cases with ⟨hd, e⟩ | ⟨-, e⟩ <;> rw [e]
  · obtain ⟨hfsm, hstrong, -, hq⟩ := h.dpend_waits hd
    exact h.takeChecksum hfsm hq rfl (by rw [hstrong]; rfl)
  · exact h

end State.Inv

theorem ErrKind.code_le (e : ErrKind) : e.code.toNat ≤ 8 := by cases e <;> decide

theorem ErrKind.code_ne_zero {e : ErrKind} (h : e.code ≠ 0) : e ≠ .none := by
  rintro rfl
  exact h rfl

/-- Room for the items is room in each output FIFO. -/
theorem State.hasRoom_length {items : OutItems} (hroom : s.hasRoom items = true) (hs : s.sout.length ≤ Config.capSout)
    (hb : s.bout.length ≤ Config.capBout) :
    (s.sout ++ items.toSout).length ≤ Config.capSout ∧ (s.bout ++ items.toBout).length ≤ Config.capBout := by
  cases items with
  | none => simpa [OutItems.toSout, OutItems.toBout] using ⟨hs, hb⟩
  | syms l => simpa [OutItems.toSout, OutItems.toBout, hb, State.hasRoom] using hroom
  | bytes l => simpa [OutItems.toSout, OutItems.toBout, hs, State.hasRoom] using hroom

namespace State.Inv

theorem commit (h : s.Inv) (hfsm : s.fsm = .commit) : s.commit.Inv := by
  have hd : s.dpend = false := h.dpend_of_not_compute (by simp [hfsm])
  have ho := h.outv_sound hfsm
  rcases s.commit_cases with ⟨hroom, e⟩ | ⟨-, e⟩ <;> rw [e]
  · obtain ⟨hsout, hbout⟩ := State.hasRoom_length hroom h.sout_cap h.bout_cap
    exact { h with
      busy_iff := by simp
      done_idle := fun _ => rfl
      err_le := ErrKind.code_le _
      shortsub_err := fun hsub => by simp [ho.shortsub_short hsub, ErrKind.code]
      error_zero := fun herr =>
        have ⟨hr, hc, hl, _⟩ := ho.error_zero (ErrKind.code_ne_zero herr)
        ⟨hr, hc, hl⟩
      sout_cap := hsout
      bout_cap := hbout
      dpend_waits := by simp [hd]
      running_legal := by simp
      work_bounded := Work.leftOver_bounded _
      work_collected := by simp
      chk_collect := by simp
      chk_compute := by simp
      outv_sound := by simp }
  · exact h

theorem coreStep (h : s.Inv) : s.coreStep.Inv := by
  rcases s.coreStep_cases with ⟨-, e⟩ | ⟨hfsm, e⟩ | ⟨hfsm, e⟩ | ⟨hfsm, e⟩ <;> rw [e]
  · exact h
  · exact h.collect hfsm
  · exact h.compute hfsm
  · exact h.commit hfsm

theorem nextTurn (h : s.Inv) : s.nextTurn.Inv := { h with }

theorem lateAnswer (h : s.Inv) : s.lateAnswer.Inv := { h with }

theorem platformReset (s : State) : s.platformReset.Inv := { Inv.reset with }

theorem hostStep (h : s.Inv) (hs : Machine.hostStep s = .next t) : t.Inv := by
  rcases hostStep_next hs with ⟨-, rfl⟩ | ⟨_, _, _, -, -, he⟩
  · exact h
  · exact h.exec he

end State.Inv

/-- Settles O58: each agent's move keeps the invariant. -/
theorem everyStepKeepsTheInvariant : Obligations.EveryStepKeepsTheInvariant := by
  intro s t h hstep
  rcases step_next hstep with ⟨-, hs⟩ | ⟨-, rfl⟩ | ⟨-, rfl⟩ | ⟨-, rfl⟩ | ⟨-, rfl⟩ | ⟨-, rfl⟩
  · exact h.nextTurn.hostStep hs
  · exact h.nextTurn.coreStep
  · exact h.nextTurn.digestAnswer
  · exact h.nextTurn.lateAnswer
  · exact State.Inv.platformReset _
  · exact h.nextTurn

/-- Settles O57: at reset the sequencer is in `IDLE`, every FIFO is empty and the working registers are cleared. -/
theorem invariantHoldsAtReset : Obligations.InvariantHoldsAtReset := State.Inv.reset

end Sys2Proof.Machine
end

section
/-! Proofs of the statements from 10_state.md: what each agent's move changes and leaves alone. -/

namespace Sys2Proof.Machine

variable {s t : State} {i : Instr}

/-! ### What each agent's move leaves unchanged -/

/-- What every host operation but the start of a command keeps to: of the running command, its results and `STATUS` but
for `OVR` it changes nothing; input FIFOs may grow at the end, output FIFOs may lose the head (R38, R56, R158). -/
structure HostFrame (s t : State) : Prop where
  fsm : t.fsm = s.fsm
  lop : t.lop = s.lop
  lcfg : t.lcfg = s.lcfg
  larg : t.larg = s.larg
  work : t.work = s.work
  dpend : t.dpend = s.dpend
  dreq : t.dreq = s.dreq
  late : t.late = s.late
  result : t.result = s.result
  consumed : t.consumed = s.consumed
  outlen : t.outlen = s.outlen
  busy : t.status.busy = s.status.busy
  done : t.status.done = s.status.done
  err : t.status.err = s.status.err
  shortsub : t.status.shortsub = s.status.shortsub
  bin : t.bin = s.bin ∨ ∃ x, t.bin = s.bin ++ [x]
  tin : t.tin = s.tin ∨ ∃ x, t.tin = s.tin ++ [x]
  sout : t.sout = s.sout ∨ ∃ x, s.sout = x :: t.sout
  bout : t.bout = s.bout ∨ ∃ x, s.bout = x :: t.bout
  sched : t.sched = s.sched
  tick : t.tick = s.tick

theorem HostFrame.refl (s : State) : HostFrame s s where
  fsm := rfl
  lop := rfl
  lcfg := rfl
  larg := rfl
  work := rfl
  dpend := rfl
  dreq := rfl
  late := rfl
  result := rfl
  consumed := rfl
  outlen := rfl
  busy := rfl
  done := rfl
  err := rfl
  shortsub := rfl
  bin := .inl rfl
  tin := .inl rfl
  sout := .inl rfl
  bout := .inl rfl
  sched := rfl
  tick := rfl

/-- A host operation keeps to the frame, or it starts a command in `IDLE`. -/
theorem exec_frame (h : exec i s = .next t) :
    HostFrame s t ∨ (s.fsm = .idle ∧ ∃ c, t = (s.start c).retire) := by
  rcases exec_cases h with rfl | ⟨_, rfl⟩ | ⟨_, rfl⟩ | ⟨c, rfl⟩ | ⟨_, rfl⟩ | rfl | ⟨x, -, rfl⟩ | ⟨x, -, rfl⟩ |
    ⟨x, rest, hs, rfl⟩ | ⟨x, rest, hs, rfl⟩
  · exact .inl (.refl _)
  · exact .inl { HostFrame.refl s with }
  · exact .inl { HostFrame.refl s with }
  · rcases s.cmdWrite_cases c with ⟨hidle, e⟩ | ⟨-, e⟩ <;> rw [e]
    · exact .inr ⟨hidle, c, rfl⟩
    · exact .inl { HostFrame.refl s with }
  · exact .inl { HostFrame.refl s with }
  · exact .inl { HostFrame.refl s with }
  · exact .inl { HostFrame.refl s with bin := .inr ⟨x, rfl⟩ }
  · exact .inl { HostFrame.refl s with tin := .inr ⟨x, rfl⟩ }
  · exact .inl { HostFrame.refl s with sout := .inr ⟨x, hs⟩ }
  · exact .inl { HostFrame.refl s with bout := .inr ⟨x, hs⟩ }

/-- The host's turn keeps to the frame, or it starts a command in `IDLE`. -/
theorem hostStep_frame (h : hostStep s = .next t) :
    HostFrame s t ∨ (s.fsm = .idle ∧ ∃ c, t = (s.start c).retire) := by
  rcases hostStep_next h with ⟨-, rfl⟩ | ⟨_, _, _, -, -, he⟩
  · exact .inl (.refl _)
  · exact exec_frame he

/-- The start of a command sets `BUSY` and leaves `IDLE`: for `COMMIT` if the command is illegal, else for `COLLECT`. -/
theorem State.start_fsm (s : State) (c : Cmd) :
    (s.start c).status.busy = true ∧
      (((s.start c).fsm = .collect ∧ (s.start c).lop ≠ .illegal) ∨
        ((s.start c).fsm = .commit ∧ (s.start c).lop = .illegal)) := by
  rcases s.start_cases c with ⟨hc, e⟩ | ⟨hc, e⟩ <;> rw [e]
  · exact ⟨rfl, .inr ⟨rfl, hc⟩⟩
  · exact ⟨rfl, .inl ⟨rfl, hc⟩⟩

theorem State.cmdWrite_of_idle (h : s.fsm = .idle) (c : Cmd) : s.cmdWrite c = s.start c := by
  simp [cmdWrite, h]

theorem State.cmdWrite_of_busy (h : s.fsm ≠ .idle) (c : Cmd) :
    s.cmdWrite c = { s with status := s.status.dropped } := by
  simp [cmdWrite, h]

/-- What starting a command leaves unchanged. -/
theorem State.start_frame (s : State) (c : Cmd) :
    s.start c =
      { s with
        lop := c, lcfg := s.cfg, larg := s.arg, status := s.status.accepted
        fsm := (s.start c).fsm, work := (s.start c).work } := by
  rcases s.start_cases c with ⟨-, e⟩ | ⟨-, e⟩ <;> rw [e]

/-- What `COLLECT` leaves unchanged. -/
theorem State.collect_frame (s : State) :
    s.collect = { s with bin := s.collect.bin, tin := s.collect.tin, fsm := s.collect.fsm, work := s.collect.work } := by
  rcases s.collect_cases with e | ⟨-, _, _, -, ⟨-, e⟩ | ⟨-, e⟩⟩ | ⟨-, _, _, -, ⟨-, e⟩ | ⟨-, e⟩⟩ <;> rw [e]

/-- What `COMPUTE` leaves unchanged. -/
theorem State.compute_frame (s : State) :
    s.compute =
      { s with
        fsm := s.compute.fsm, dpend := s.compute.dpend, dreq := s.compute.dreq, work := s.compute.work } := by
  rcases s.compute_cases with ⟨-, e⟩ | ⟨-, e, -⟩ | ⟨_, -, -, -, ⟨-, e⟩ | ⟨-, e⟩⟩ <;> rw [e] <;> rfl

/-- What the provider's answer leaves unchanged. -/
theorem State.digestAnswer_frame (s : State) :
    s.digestAnswer =
      { s with dpend := s.digestAnswer.dpend, dreq := s.digestAnswer.dreq, work := s.digestAnswer.work } := by
  rcases s.digestAnswer_cases with ⟨-, e⟩ | ⟨-, e⟩ <;> rw [e]

theorem State.coreStep_of_idle (h : s.fsm = .idle) : s.coreStep = s := by
  simp [coreStep, h]

/-! ### Results -/

/-- What a commit reports in registers: `RESULT`, `CONSUMED`, `OUTLEN`, `ERR` and `SHORTSUB`. -/
def State.results (s : State) : Word32 × Word32 × Word32 × BitVec 4 × Bool :=
  (s.result, s.consumed, s.outlen, s.status.err, s.status.shortsub)

theorem State.results_ne_iff {s t : State} :
    t.results ≠ s.results ↔ t.result ≠ s.result ∨ t.consumed ≠ s.consumed ∨ t.outlen ≠ s.outlen ∨
      t.status.err ≠ s.status.err ∨ t.status.shortsub ≠ s.status.shortsub := by
  simp only [results, ne_eq, Prod.mk.injEq, not_and_or]

theorem State.start_results (s : State) (c : Cmd) : (s.start c).results = s.results := by
  rw [start_frame]; rfl

theorem State.collect_results (s : State) : s.collect.results = s.results := by
  rw [collect_frame]; rfl

theorem State.compute_results (s : State) : s.compute.results = s.results := by
  rw [compute_frame]; rfl

theorem State.digestAnswer_results (s : State) : s.digestAnswer.results = s.results := by
  rw [digestAnswer_frame]; rfl

theorem HostFrame.results (h : HostFrame s t) : t.results = s.results := by
  simp only [State.results, h.result, h.consumed, h.outlen, h.err, h.shortsub]

theorem hostStep_results (h : hostStep s = .next t) : t.results = s.results := by
  rcases hostStep_frame h with hf | ⟨-, c, rfl⟩
  · exact hf.results
  · exact s.start_results c

/-- Of the core's steps only the commit that takes place changes the results. -/
theorem State.coreStep_results (s : State) :
    s.coreStep.results = s.results ∨
      (s.fsm = .commit ∧ s.coreStep.fsm = .idle ∧ s.coreStep.status.done = true) := by
  rcases s.coreStep_cases with ⟨-, e⟩ | ⟨-, e⟩ | ⟨-, e⟩ | ⟨hfsm, e⟩ <;> rw [e]
  · exact .inl rfl
  · exact .inl (s.collect_results)
  · exact .inl (s.compute_results)
  · rcases s.commit_cases with ⟨-, e⟩ | ⟨-, e⟩ <;> rw [e]
    · exact .inr ⟨hfsm, rfl, rfl⟩
    · exact .inl rfl

/-- Settles O18: only a reset and the core's commit touch the results. -/
theorem resultsChangeOnlyAtCommitOrReset : Obligations.ResultsChangeOnlyAtCommitOrReset := by
  intro s t hstep hne
  have hne : t.results ≠ s.results := State.results_ne_iff.2 hne
  rcases step_next hstep with ⟨-, h⟩ | ⟨hturn, rfl⟩ | ⟨-, rfl⟩ | ⟨-, rfl⟩ | ⟨hturn, -⟩ | ⟨-, rfl⟩
  · exact absurd (hostStep_results h) hne
  · rcases s.nextTurn.coreStep_results with h | ⟨hfsm, hidle, hdone⟩
    · exact absurd h hne
    · exact .inl ⟨hturn, hfsm, hidle, hdone⟩
  · exact absurd s.nextTurn.digestAnswer_results hne
  · exact absurd rfl hne
  · exact .inr hturn
  · exact absurd rfl hne

/-! ### Host operations -/

/-- Settles O17: a busy block lets the host start nothing, and every other host operation keeps to the frame. -/
theorem hostOperationsLeaveTheRunningCommandAlone : Obligations.HostOperationsLeaveTheRunningCommandAlone := by
  intro i s t hbusy hexec
  rcases exec_frame hexec with h | ⟨hidle, -⟩
  · have hbin : s.bin <+: t.bin := by
      rcases h.bin with e | ⟨x, e⟩ <;> simp [e]
    have htin : s.tin <+: t.tin := by
      rcases h.tin with e | ⟨x, e⟩ <;> simp [e]
    have hsout : t.sout <:+ s.sout := by
      rcases h.sout with e | ⟨x, e⟩ <;> simp [e]
    have hbout : t.bout <:+ s.bout := by
      rcases h.bout with e | ⟨x, e⟩ <;> simp [e]
    exact ⟨h.fsm, h.lop, h.lcfg, h.larg, h.work, h.dpend, h.dreq, h.late, h.result, h.consumed, h.outlen, h.busy,
      h.done, h.err, h.shortsub, hbin, htin, hsout, hbout, h.sched, h.tick⟩
  · exact absurd hidle hbusy

/-! ### The sequencer -/

/-- Each step of the core that moves the sequencer (R23, R128 to R130). -/
theorem State.coreStep_fsm (s : State) (hne : s.coreStep.fsm ≠ s.fsm) :
    (s.fsm = .collect ∧ s.coreStep.fsm = .compute ∧
      ((∃ x, x.isEnd = true ∧ s.bin = x :: s.coreStep.bin) ∨
        ∃ x, x.isEnd = true ∧ s.tin = x :: s.coreStep.tin)) ∨
    (s.fsm = .compute ∧ s.coreStep.fsm = .commit) ∨
    (s.fsm = .commit ∧ s.coreStep.fsm = .idle ∧ s.coreStep.status.busy = false) := by
  rcases s.coreStep_cases with ⟨-, e⟩ | ⟨hfsm, e⟩ | ⟨hfsm, e⟩ | ⟨hfsm, e⟩ <;> rw [e] at hne ⊢
  · exact absurd rfl hne
  · rcases s.collect_cases with e | ⟨-, x, rest, hb, ⟨hx, e⟩ | ⟨-, e⟩⟩ | ⟨-, x, rest, hb, ⟨hx, e⟩ | ⟨-, e⟩⟩ <;>
      rw [e] at hne ⊢
    · exact absurd rfl hne
    · exact .inl ⟨hfsm, rfl, .inl ⟨x, hx, hb⟩⟩
    · exact absurd rfl hne
    · exact .inl ⟨hfsm, rfl, .inr ⟨x, hx, hb⟩⟩
    · exact absurd rfl hne
  · rcases s.compute_cases with ⟨-, e⟩ | ⟨-, e, -⟩ | ⟨_, -, -, -, ⟨-, e⟩ | ⟨-, e⟩⟩ <;> rw [e] at hne ⊢
    · exact absurd rfl hne
    · exact .inr (.inl ⟨hfsm, rfl⟩)
    · exact absurd rfl hne
    · exact absurd rfl hne
  · rcases s.commit_cases with ⟨-, e⟩ | ⟨-, e⟩ <;> rw [e] at hne ⊢
    · exact .inr (.inr ⟨hfsm, rfl, rfl⟩)
    · exact absurd rfl hne

/-- Settles O19: the host moves the sequencer by a start only, the core along R23's transitions. -/
theorem sequencerTransitions : Obligations.SequencerTransitions := by
  intro s t hstep hne
  rcases step_next hstep with ⟨hturn, h⟩ | ⟨hturn, rfl⟩ | ⟨-, rfl⟩ | ⟨-, rfl⟩ | ⟨hturn, rfl⟩ | ⟨-, rfl⟩
  · rcases hostStep_frame h with hf | ⟨hidle, c, rfl⟩
    · exact absurd hf.fsm hne
    · obtain ⟨hbusy, ⟨hfsm, hlop⟩ | ⟨hfsm, hlop⟩⟩ := s.nextTurn.start_fsm c
      · exact .inl ⟨hturn, hidle, hfsm, hlop, hbusy⟩
      · exact .inr (.inl ⟨hturn, hidle, hfsm, hlop, hbusy⟩)
  · rcases s.nextTurn.coreStep_fsm hne with ⟨hs, ht, hend⟩ | ⟨hs, ht⟩ | ⟨hs, ht, hbusy⟩
    · exact .inr (.inr (.inl ⟨hturn, hs, ht, hend⟩))
    · exact .inr (.inr (.inr (.inl ⟨hturn, hs, ht⟩)))
    · exact .inr (.inr (.inr (.inr (.inl ⟨hturn, hs, ht, hbusy⟩))))
  · exact absurd (congrArg State.fsm s.nextTurn.digestAnswer_frame) hne
  · exact absurd rfl hne
  · exact .inr (.inr (.inr (.inr (.inr ⟨hturn, rfl⟩))))
  · exact absurd rfl hne

/-! ### FIFOs -/

/-- The four FIFOs. -/
def State.fifos (s : State) : List BinItem × List Token × List SymItem × List Byte :=
  (s.bin, s.tin, s.sout, s.bout)

theorem State.fifos_eq_iff {s t : State} :
    t.fifos = s.fifos ↔ t.bin = s.bin ∧ t.tin = s.tin ∧ t.sout = s.sout ∧ t.bout = s.bout := by
  simp only [fifos, Prod.mk.injEq]

theorem State.start_fifos (s : State) (c : Cmd) : (s.start c).fifos = s.fifos := by
  rw [start_frame]; rfl

theorem State.compute_fifos (s : State) : s.compute.fifos = s.fifos := by
  rw [compute_frame]; rfl

theorem State.digestAnswer_fifos (s : State) : s.digestAnswer.fifos = s.fifos := by
  rw [digestAnswer_frame]; rfl

/-- What the host may do to the FIFOs: push at the end of an input FIFO, pop the head of an output FIFO. -/
theorem hostStep_fifos (h : hostStep s = .next t) :
    (t.bin = s.bin ∨ ∃ x, t.bin = s.bin ++ [x]) ∧ (t.tin = s.tin ∨ ∃ x, t.tin = s.tin ++ [x]) ∧
      (t.sout = s.sout ∨ ∃ x, s.sout = x :: t.sout) ∧ (t.bout = s.bout ∨ ∃ x, s.bout = x :: t.bout) := by
  rcases hostStep_frame h with hf | ⟨-, c, rfl⟩
  · exact ⟨hf.bin, hf.tin, hf.sout, hf.bout⟩
  · obtain ⟨hb, ht, hs, ho⟩ := State.fifos_eq_iff.1 (s.start_fifos c)
    exact ⟨.inl hb, .inl ht, .inl hs, .inl ho⟩

/-- What the core may do to the FIFOs: pop the head of the command's input FIFO in `COLLECT`, append the output at the
commit. -/
theorem State.coreStep_fifos (s : State) :
    (s.coreStep.bin = s.bin ∨ (s.fsm = .collect ∧ s.lop.inPort = .bin ∧ ∃ x, s.bin = x :: s.coreStep.bin)) ∧
    (s.coreStep.tin = s.tin ∨ (s.fsm = .collect ∧ s.lop.inPort = .tin ∧ ∃ x, s.tin = x :: s.coreStep.tin)) ∧
    (s.coreStep.sout = s.sout ∨ (s.fsm = .commit ∧ s.coreStep.sout = s.sout ++ s.work.outv.items.toSout)) ∧
    (s.coreStep.bout = s.bout ∨ (s.fsm = .commit ∧ s.coreStep.bout = s.bout ++ s.work.outv.items.toBout)) := by
  rcases s.coreStep_cases with ⟨-, e⟩ | ⟨hfsm, e⟩ | ⟨-, e⟩ | ⟨hfsm, e⟩ <;> rw [e]
  · exact ⟨.inl rfl, .inl rfl, .inl rfl, .inl rfl⟩
  · rcases s.collect_cases with e | ⟨hp, x, rest, hb, ⟨-, e⟩ | ⟨-, e⟩⟩ | ⟨hp, x, rest, hb, ⟨-, e⟩ | ⟨-, e⟩⟩ <;> rw [e]
    · exact ⟨.inl rfl, .inl rfl, .inl rfl, .inl rfl⟩
    · exact ⟨.inr ⟨hfsm, hp, x, hb⟩, .inl rfl, .inl rfl, .inl rfl⟩
    · exact ⟨.inr ⟨hfsm, hp, x, hb⟩, .inl rfl, .inl rfl, .inl rfl⟩
    · exact ⟨.inl rfl, .inr ⟨hfsm, hp, x, hb⟩, .inl rfl, .inl rfl⟩
    · exact ⟨.inl rfl, .inr ⟨hfsm, hp, x, hb⟩, .inl rfl, .inl rfl⟩
  · obtain ⟨hb, ht, hs, ho⟩ := State.fifos_eq_iff.1 s.compute_fifos
    exact ⟨.inl hb, .inl ht, .inl hs, .inl ho⟩
  · rcases s.commit_cases with ⟨-, e⟩ | ⟨-, e⟩ <;> rw [e]
    · exact ⟨.inl rfl, .inl rfl, .inr ⟨hfsm, rfl⟩, .inr ⟨hfsm, rfl⟩⟩
    · exact ⟨.inl rfl, .inl rfl, .inl rfl, .inl rfl⟩

/-- Settles O20: by what the host and the core may do to the FIFOs; the provider's answer leaves them alone. -/
theorem fifosChangeOnlyAtTheirEnds : Obligations.FifosChangeOnlyAtTheirEnds := by
  intro s t hstep hreset
  rcases step_next hstep with ⟨hturn, h⟩ | ⟨hturn, rfl⟩ | ⟨-, rfl⟩ | ⟨-, rfl⟩ | ⟨hturn, -⟩ | ⟨-, rfl⟩
  · obtain ⟨hb, ht, hs, ho⟩ := hostStep_fifos h
    exact ⟨hb.imp_right fun h => .inl ⟨hturn, h⟩, ht.imp_right fun h => .inl ⟨hturn, h⟩,
      hs.imp_right fun h => .inl ⟨hturn, h⟩, ho.imp_right fun h => .inl ⟨hturn, h⟩⟩
  · obtain ⟨hb, ht, hs, ho⟩ := s.nextTurn.coreStep_fifos
    exact ⟨hb.imp_right fun h => .inr ⟨hturn, h⟩, ht.imp_right fun h => .inr ⟨hturn, h⟩,
      hs.imp_right fun h => .inr ⟨hturn, h⟩, ho.imp_right fun h => .inr ⟨hturn, h⟩⟩
  · obtain ⟨hb, ht, hs, ho⟩ := State.fifos_eq_iff.1 s.nextTurn.digestAnswer_fifos
    exact ⟨.inl hb, .inl ht, .inl hs, .inl ho⟩
  · exact ⟨.inl rfl, .inl rfl, .inl rfl, .inl rfl⟩
  · exact absurd hturn hreset
  · exact ⟨.inl rfl, .inl rfl, .inl rfl, .inl rfl⟩

/-! ### Waiting for the digest -/

theorem State.coreStep_of_waiting (hfsm : s.fsm = .compute) (hd : s.dpend = true) : s.coreStep = s := by
  simp [State.coreStep, State.compute, hfsm, hd]

/-- Settles O22: by the invariant the command is in `COMPUTE`, where the core waits and the host leaves it alone. -/
theorem waitingForTheDigest : Obligations.WaitingForTheDigest := by
  intro s t hinv hd hdigest hreset hstep
  have hfsm : s.fsm = .compute := (hinv.dpend_waits hd).1
  rcases step_next hstep with ⟨-, h⟩ | ⟨-, rfl⟩ | ⟨hturn, -⟩ | ⟨-, rfl⟩ | ⟨hturn, -⟩ | ⟨-, rfl⟩
  · rcases hostStep_frame h with hf | ⟨hidle, -⟩
    · exact ⟨hf.dpend.trans hd, hf.dreq, hf.fsm.trans hfsm, hf.work, hf.lop, hf.lcfg, hf.larg⟩
    · exact absurd (hfsm.symm.trans hidle) (by decide)
  · rw [State.coreStep_of_waiting (s := s.nextTurn) hfsm hd]
    exact ⟨hd, rfl, hfsm, rfl, rfl, rfl, rfl⟩
  · exact absurd hturn hdigest
  · exact ⟨hd, rfl, hfsm, rfl, rfl, rfl, rfl⟩
  · exact absurd hturn hreset
  · exact ⟨hd, rfl, hfsm, rfl, rfl, rfl, rfl⟩

/-! ### Single steps and fixed values -/

/-- Settles O8: the step's dispatch on the turn, and the host's turn with no word pending. -/
theorem oneAgentMovesAtAStep : Obligations.OneAgentMovesAtAStep := by
  intro s
  refine ⟨fun h => ?_, fun h => ?_, fun h => ?_, fun h => ?_, fun h => ?_, fun h hq => ?host⟩
  case host => simp only [step, h, hostStep, State.fetch, State.nextTurn, hq, List.head?_nil]
  all_goals simp only [step, h, State.nextTurn]

/-- Settles O10: bits 8:0 one by one, and no field reaches above them. -/
theorem statusWordBits : Obligations.StatusWordBits := by
  intro f i
  by_cases hi : i < 9
  · simp only [Status.word, BitVec.getLsbD_append]
    interval_cases i <;> simp
  · have hle : 9 ≤ i := Nat.le_of_not_lt hi
    simp only [Status.word, BitVec.getLsbD_append]
    simp (disch := omega) only [if_neg, BitVec.getLsbD_zero]

/-- Settles O13: each of the six operations is a `CMD` write, and a busy block drops it. -/
theorem commandWriteIsDroppedWhenBusy : Obligations.CommandWriteIsDroppedWhenBusy := by
  intro s i hbusy hi
  obtain ⟨c, hc⟩ : ∃ c, exec i s = .next (s.cmdWrite c).retire := by
    rcases hi with rfl | rfl | rfl | rfl | rfl | ⟨data, rfl⟩ <;> exact ⟨_, rfl⟩
  rw [hc, State.cmdWrite_of_busy hbusy]
  rfl

/-- Settles O16: at a full or empty FIFO each operation's waiting case is the one left. -/
theorem pushAndPopWait : Obligations.PushAndPopWait := by
  intro s
  refine ⟨fun hfull x => ?_, fun hfull x => ?_, fun hempty => ?_, fun hempty => ?_⟩
  · rcases s.pushBin_cases x with ⟨hlt, -⟩ | ⟨-, e⟩
    · exact absurd hfull (Nat.not_le_of_lt hlt)
    · exact congrArg Host.Outcome.next e
  · rcases s.pushTin_cases x with ⟨hlt, -⟩ | ⟨-, e⟩
    · exact absurd hfull (Nat.not_le_of_lt hlt)
    · exact congrArg Host.Outcome.next e
  · rcases execPops_cases s with ⟨x, rest, hs, -⟩ | ⟨-, e⟩
    · simp [hempty] at hs
    · exact e
  · rcases execPopb_cases s with ⟨x, rest, hs, -⟩ | ⟨-, e⟩
    · simp [hempty] at hs
    · exact e

/-- Settles O29: each value as `State.reset` gives it. -/
theorem resetValues : Obligations.ResetValues := by
  unfold Obligations.ResetValues
  decide

end Sys2Proof.Machine
end

section
/-! Proofs of the statements from 10_state.md: left-over registers cannot be observed. -/

namespace Sys2Proof.Machine

variable {s t a b : State} {i : Instr}

/-! ### Left-over registers -/

/-- The same state but for the latched context and the working registers. -/
def State.withLatch (s : State) (c : Cmd) (lcfg larg : Word32) (w : Work) : State :=
  { s with lop := c, lcfg := lcfg, larg := larg, work := w }

/-- With `w` for working registers, a state differs only in what R19, R20 and R41 say no rule reads before it is
written. -/
def State.Unread (s : State) (w : Work) : Prop :=
  s.fsm = .idle ∨ (s.fsm = .commit ∧ w.outv = s.work.outv)

/-- The result of a step as far as it can matter later. -/
def visibleOutcome (o : Host.Outcome State Fault Refusal) : Host.Outcome State Fault Refusal :=
  match o with
  | .next s => .next s.visible
  | .fault why => .fault why
  | .refused why => .refused why

theorem visibleOutcome_eq_next {o : Host.Outcome State Fault Refusal} :
    visibleOutcome o = .next t ↔ ∃ s, o = .next s ∧ s.visible = t := by
  cases o <;> simp [visibleOutcome]

theorem visibleOutcome_eq_refused {o : Host.Outcome State Fault Refusal} {why : Refusal} :
    visibleOutcome o = .refused why ↔ o = .refused why := by
  cases o <;> simp [visibleOutcome]

theorem State.visible_fsm (s : State) : s.visible.fsm = s.fsm := by
  rcases h : s.fsm with _ | _ | _ | _ <;> simp [visible, h]

theorem State.visible_outv (h : s.fsm = .commit) : s.visible.work.outv = s.work.outv := by
  simp [visible, h]

theorem State.visible_withLatch_own (s : State) : s.visible.withLatch s.lop s.lcfg s.larg s.work = s := by
  unfold visible
  split <;> rfl

theorem State.withLatch_visible {w : Work} (h : s.Unread w) (c : Cmd) (lcfg larg : Word32) :
    (s.withLatch c lcfg larg w).visible = s.visible := by
  rcases h with h | ⟨h, ho⟩
  · simp [visible, withLatch, h]
  · simp [visible, withLatch, h, ho]

/-- States that agree on what matters are equal but for what no rule reads. -/
theorem State.eq_or_withLatch (h : a.visible = b.visible) :
    b = a ∨ ∃ c lcfg larg w, a.Unread w ∧ b = a.withLatch c lcfg larg w := by
  have hfsm : a.fsm = b.fsm := by rw [← a.visible_fsm, h, b.visible_fsm]
  have hlatch : b = a.withLatch b.lop b.lcfg b.larg b.work := by
    calc b = b.visible.withLatch b.lop b.lcfg b.larg b.work := b.visible_withLatch_own.symm
      _ = a.visible.withLatch b.lop b.lcfg b.larg b.work := by rw [h]
      _ = (a.visible.withLatch a.lop a.lcfg a.larg a.work).withLatch b.lop b.lcfg b.larg b.work := rfl
      _ = a.withLatch b.lop b.lcfg b.larg b.work := by rw [a.visible_withLatch_own]
  cases ha : a.fsm with
  | idle => exact .inr ⟨_, _, _, _, .inl ha, hlatch⟩
  | commit =>
    have hb : b.fsm = .commit := hfsm ▸ ha
    have ho : b.work.outv = a.work.outv := by
      rw [← State.visible_outv hb, ← h, State.visible_outv ha]
    exact .inr ⟨_, _, _, _, .inr ⟨ha, ho⟩, hlatch⟩
  | collect => exact .inl (by simpa [visible, ha, ← hfsm] using h.symm)
  | compute => exact .inl (by simpa [visible, ha, ← hfsm] using h.symm)

/-! What each move makes of a state with other left-over registers. -/

section withLatch
variable (c : Cmd) (lcfg larg : Word32) {w : Work}

theorem State.start_withLatch_visible (k : Cmd) :
    ((s.withLatch c lcfg larg w).start k).retire.visible = (s.start k).retire.visible := by
  rcases s.start_cases k with ⟨hk, e⟩ | ⟨hk, e⟩ <;> rw [e]
  · simp [start, withLatch, retire, hk, visible]
  · simp [start, withLatch, retire, hk]

theorem State.cmdWrite_withLatch_visible (h : s.Unread w) (k : Cmd) :
    ((s.withLatch c lcfg larg w).cmdWrite k).retire.visible = (s.cmdWrite k).retire.visible := by
  by_cases hidle : s.fsm = .idle
  · rw [cmdWrite_of_idle hidle, cmdWrite_of_idle (s := s.withLatch c lcfg larg w) hidle]
    exact s.start_withLatch_visible c lcfg larg k
  · rw [cmdWrite_of_busy hidle, cmdWrite_of_busy (s := s.withLatch c lcfg larg w) hidle]
    exact withLatch_visible (s := { s with status := s.status.dropped }.retire) h c lcfg larg

/-- The operation answers a next state, leaves the sequencer and the working registers alone, and does the same
whatever the latched context and the working registers are. -/
def IgnoresLatch (op : State → Host.Outcome State Fault Refusal) : Prop :=
  ∀ s : State, ∃ t, op s = .next t ∧ t.fsm = s.fsm ∧ t.work = s.work ∧
    ∀ c lcfg larg w, op (s.withLatch c lcfg larg w) = .next (t.withLatch c lcfg larg w)

theorem execRd_ignoresLatch (slot : Slot) : IgnoresLatch (execRd slot) :=
  fun _ => ⟨_, rfl, rfl, rfl, fun _ _ _ _ => rfl⟩

theorem execWr_ignoresLatch {slot : Slot} (hslot : slot ≠ 1) (v : Word32) : IgnoresLatch (execWr slot v) := by
  intro s
  simp only [execWr, State.writeReg]
  split
  · exact ⟨_, rfl, rfl, rfl, fun _ _ _ _ => rfl⟩
  · exact absurd (BitVec.eq_of_toNat_eq ‹_›) hslot
  · exact ⟨_, rfl, rfl, rfl, fun _ _ _ _ => rfl⟩
  · exact ⟨_, rfl, rfl, rfl, fun _ _ _ _ => rfl⟩

theorem execPushb_ignoresLatch (x : BinItem) : IgnoresLatch (execPushb x) := by
  intro s
  by_cases h : s.bin.length < Config.capBin <;>
    simp [execPushb, State.pushBin, State.pushOrWait, State.withLatch, State.retire, h]

theorem execPusht_ignoresLatch (x : Token) : IgnoresLatch (execPusht x) := by
  intro s
  by_cases h : s.tin.length < Config.capTin <;>
    simp [execPusht, State.pushTin, State.pushOrWait, State.withLatch, State.retire, h]

theorem execPops_ignoresLatch : IgnoresLatch execPops := by
  intro s
  rcases h : s.sout with _ | ⟨x, rest⟩ <;>
    simp [execPops, State.popSout, State.withLatch, State.answer, State.retire, h]

theorem execPopb_ignoresLatch : IgnoresLatch execPopb := by
  intro s
  rcases h : s.bout with _ | ⟨x, rest⟩ <;>
    simp [execPopb, State.popBout, State.withLatch, State.answer, State.retire, h]

/-- A host operation writes `CMD`, or it ignores the latched context and the working registers. -/
theorem exec_cmdWrite_or_ignoresLatch (i : Instr) :
    (∃ k, ∀ s, exec i s = .next (s.cmdWrite k).retire) ∨ IgnoresLatch (exec i) := by
  cases i with
  | rd slot => exact .inr (execRd_ignoresLatch slot)
  | wr slot v =>
    by_cases hslot : slot = 1
    · exact .inl ⟨Cmd.ofWord v, fun s => by rw [hslot]; rfl⟩
    · exact .inr (execWr_ignoresLatch hslot v)
  | pushb x => exact .inr (execPushb_ignoresLatch x)
  | pusht x => exact .inr (execPusht_ignoresLatch x)
  | pops => exact .inr execPops_ignoresLatch
  | popb => exact .inr execPopb_ignoresLatch
  | encode => exact .inl ⟨.encode, fun _ => rfl⟩
  | decode => exact .inl ⟨.decode, fun _ => rfl⟩
  | checksum => exact .inl ⟨.checksum, fun _ => rfl⟩
  | pack => exact .inl ⟨.pack, fun _ => rfl⟩
  | unpack => exact .inl ⟨.unpack, fun _ => rfl⟩
  | cmdIllegal data => exact .inl ⟨Cmd.ofWord data, fun _ => rfl⟩

theorem exec_withLatch_visible (h : s.Unread w) (i : Instr) :
    visibleOutcome (exec i (s.withLatch c lcfg larg w)) = visibleOutcome (exec i s) := by
  rcases exec_cmdWrite_or_ignoresLatch i with ⟨k, hk⟩ | hignores
  · rw [hk, hk]
    exact congrArg Host.Outcome.next (s.cmdWrite_withLatch_visible c lcfg larg h k)
  · obtain ⟨t, hs, hfsm, hwork, hlatch⟩ := hignores s
    have ht : t.Unread w := by simpa only [State.Unread, hfsm, hwork] using h
    rw [hs, hlatch]
    exact congrArg Host.Outcome.next (State.withLatch_visible ht c lcfg larg)

theorem hostStep_withLatch_visible (h : s.Unread w) :
    visibleOutcome (hostStep (s.withLatch c lcfg larg w)) = visibleOutcome (hostStep s) := by
  have hfetch : (s.withLatch c lcfg larg w).fetch = s.fetch := rfl
  unfold hostStep
  rw [hfetch]
  rcases s.fetch with _ | word
  · exact congrArg Host.Outcome.next (State.withLatch_visible h c lcfg larg)
  · dsimp only
    rcases decode word with why | i
    · rfl
    · exact exec_withLatch_visible c lcfg larg h i

theorem State.commit_withLatch_visible (hfsm : s.fsm = .commit) (ho : w.outv = s.work.outv) :
    (s.withLatch c lcfg larg w).commit.visible = s.commit.visible := by
  have ho : (s.withLatch c lcfg larg w).work.outv = s.work.outv := ho
  have hroom : (s.withLatch c lcfg larg w).hasRoom s.work.outv.items = s.hasRoom s.work.outv.items := rfl
  have hcommit := (s.withLatch c lcfg larg w).commit_cases
  rw [ho, hroom] at hcommit
  rcases s.commit_cases with ⟨hr, e⟩ | ⟨hr, e⟩ <;> rcases hcommit with ⟨hr', e'⟩ | ⟨hr', e'⟩
  · rw [e, e']; rfl
  · exact absurd (hr.symm.trans hr') (by decide)
  · exact absurd (hr'.symm.trans hr) (by decide)
  · rw [e, e']
    exact withLatch_visible (.inr ⟨hfsm, ho⟩) c lcfg larg

theorem State.coreStep_withLatch_visible (h : s.Unread w) :
    (s.withLatch c lcfg larg w).coreStep.visible = s.coreStep.visible := by
  rcases h with hfsm | ⟨hfsm, ho⟩
  · rw [coreStep_of_idle hfsm, coreStep_of_idle (s := s.withLatch c lcfg larg w) hfsm]
    exact withLatch_visible (.inl hfsm) c lcfg larg
  · rw [coreStep_of_commit hfsm, coreStep_of_commit (s := s.withLatch c lcfg larg w) hfsm]
    exact s.commit_withLatch_visible c lcfg larg hfsm ho

theorem State.digestAnswer_withLatch_visible (h : s.Unread w) :
    (s.withLatch c lcfg larg w).digestAnswer.visible = s.digestAnswer.visible := by
  have hdpend : (s.withLatch c lcfg larg w).dpend = s.dpend := rfl
  have hanswer := (s.withLatch c lcfg larg w).digestAnswer_cases
  rw [hdpend] at hanswer
  rcases s.digestAnswer_cases with ⟨hd, e⟩ | ⟨hd, e⟩ <;> rcases hanswer with ⟨hd', e'⟩ | ⟨hd', e'⟩
  · have ht : s.digestAnswer.Unread (w.setChk (trunc17 (Config.digest s.dreq))) := by rw [e]; exact h
    rw [e', ← withLatch_visible ht c lcfg larg, e]
    rfl
  · exact absurd (hd.symm.trans hd') (by decide)
  · exact absurd (hd'.symm.trans hd) (by decide)
  · rw [e, e']
    exact withLatch_visible h c lcfg larg

theorem step_withLatch_visible (h : s.Unread w) :
    visibleOutcome (step (s.withLatch c lcfg larg w)) = visibleOutcome (step s) := by
  have hnext : s.nextTurn.Unread w := h
  have hturn : (s.withLatch c lcfg larg w).turn = s.turn := rfl
  unfold step
  rw [hturn]
  cases s.turn with
  | host => exact hostStep_withLatch_visible c lcfg larg hnext
  | core => exact congrArg Host.Outcome.next (State.coreStep_withLatch_visible c lcfg larg hnext)
  | digest => exact congrArg Host.Outcome.next (State.digestAnswer_withLatch_visible c lcfg larg hnext)
  | lateDigest => exact congrArg Host.Outcome.next (State.withLatch_visible (s := s.nextTurn.lateAnswer) h c lcfg larg)
  | reset => rfl
  | quiet => exact congrArg Host.Outcome.next (State.withLatch_visible hnext c lcfg larg)

end withLatch

/-- States that agree on what matters make steps that agree on what matters. -/
theorem step_visible (h : a.visible = b.visible) : visibleOutcome (step a) = visibleOutcome (step b) := by
  rcases State.eq_or_withLatch h with rfl | ⟨c, lcfg, larg, w, hw, rfl⟩
  · rfl
  · exact (step_withLatch_visible c lcfg larg hw).symm

theorem exists_next_iff_visibleOutcome {o : Host.Outcome State Fault Refusal} :
    (∃ s, o = .next s) ↔ ∃ t, visibleOutcome o = .next t := by
  simp only [visibleOutcome_eq_next]
  exact ⟨fun ⟨s, hs⟩ => ⟨_, s, hs, rfl⟩, fun ⟨_, s, hs, _⟩ => ⟨s, hs⟩⟩

/-- Settles O59: a step's visible outcome is a function of the visible state. -/
theorem leftOverRegistersDoNotMatter : Obligations.LeftOverRegistersDoNotMatter := by
  intro a b h
  have hstep := step_visible h
  refine ⟨fun s t hs ht => ?_, ?_, fun why hwhy => ?_⟩
  · rw [hs, ht] at hstep
    exact Host.Outcome.next.inj hstep
  · exact exists_next_iff_visibleOutcome.trans (hstep ▸ exists_next_iff_visibleOutcome.symm)
  · rwa [← visibleOutcome_eq_refused, ← hstep, visibleOutcome_eq_refused]

end Sys2Proof.Machine
end

section
/-! Proofs of the statements from 20_memory.md: the host's turn runs the operation that its next word spells. -/

namespace Sys2Proof

/-! ### Decoding an encoded operation -/

/-- An illegal command word decodes to `CMD.ILLEGAL` with that word (R74, R77 a). -/
theorem decodeCommand_of_illegal {d : Word32} (h : illegalCommandWord d = true) :
    decodeCommand d = .cmdIllegal d := by
  unfold decodeCommand
  split
  · next hhigh =>
    have hop : 5 ≤ (d.extractLsb' 0 3).toNat := by simpa [illegalCommandWord, hhigh] using h
    split
    case h_6 => rfl
    all_goals omega
  · rfl

/-- A word of `KIND` 1 is a write: for slot 1 the `CMD` row of its data, for another slot `WR` (R73). -/
theorem decode_hostWord_write (slot : Slot) (d : Word32) :
    decode (hostWord 1 slot d) = if slot = 1 then .ok (decodeCommand d) else .ok (.wr slot d) := by
  simp [decode]

/-- A well-formed operation is what its word spells (R73, R74). -/
theorem decode_encode {i : Instr} (h : i.wellFormed = true) : decode (encode i) = .ok i := by
  cases i with
  | rd slot => simp [encode, decode]
  | wr slot data =>
    have hslot : slot ≠ 1 := by simpa [Instr.wellFormed] using h
    rw [encode, decode_hostWord_write, if_neg hslot]
  | encode | decode | checksum | pack | unpack =>
    rw [Sys2Proof.encode, decode_hostWord_write, if_pos rfl]
    rfl
  | cmdIllegal data => rw [encode, decode_hostWord_write, if_pos rfl, decodeCommand_of_illegal h]
  | pushb item => simp [encode, decode, checkUnused]
  | pusht item => simp [encode, decode, checkUnused]
  | pops => simp [encode, decode, checkUnused]
  | popb => simp [encode, decode, checkUnused]

end Sys2Proof

namespace Sys2Proof.Machine

/-! ### The host's turn -/

variable {s : State} {w : HostWord} {rest : List HostWord} {i : Instr}

/-- The host's move is the operation that the head word of its queue spells (R55, R73). -/
theorem hostStep_of_decode (hq : s.hostq = w :: rest) (hd : decode w = .ok i) : hostStep s = exec i s := by
  simp only [hostStep, State.fetch, hq, List.head?_cons, hd]

theorem step_of_host (h : s.turn = .host) : step s = hostStep s.nextTurn := by
  simp only [step, h]

theorem State.placeWord_turn (s : State) (w : HostWord) : (s.placeWord w).turn = .host := rfl

/-- A word as a number of its own 40 bits is placed as it is. -/
theorem State.withFetchWord_toNat (s : State) (w : HostWord) : s.withFetchWord 40 w.toNat = s.placeWord w := by
  rw [State.withFetchWord, Nat.mod_eq_of_lt w.isLt, BitVec.ofNat_toNat, BitVec.setWidth_eq]

/-- Settles O6: a turn of the host is its move on its queue's head word. -/
theorem stepRunsDecodedInstruction : Obligations.StepRunsDecodedInstruction := by
  intro s w rest i hturn hq hd
  rw [step_of_host hturn]
  exact hostStep_of_decode (s := s.nextTurn) hq hd

/-- Settles O7: the placed word is at the head of the queue in a turn of the host, and it spells the operation. -/
theorem placedWordRunsNext : Obligations.PlacedWordRunsNext := by
  intro s i hi
  rw [State.withFetchWord_toNat]
  exact stepRunsDecodedInstruction _ _ _ _ (s.placeWord_turn _) (s.placeWord_hostq _) (decode_encode hi)

end Sys2Proof.Machine
end

section
/-! Proofs of the statements from 30_encoding.md: decoding, encoding and the opcode table agree on every host operation
word. -/

namespace Sys2Proof

variable {w : HostWord} {i : Instr}

/-! ### The fields of a word -/

/-- The upper bits of a register value are zero exactly when the value is below their weight. -/
theorem extractLsb'_upper_eq_zero_iff (d : Word32) {n m : Nat} (h : n + m = 32) :
    d.extractLsb' n m = 0#m ↔ d.toNat < 2 ^ n := by
  have hd : d.toNat < 2 ^ n * 2 ^ m := by rw [← Nat.pow_add, h]; exact d.isLt
  rw [← BitVec.toNat_inj, BitVec.extractLsb'_toNat, Nat.shiftRight_eq_div_pow,
    Nat.mod_eq_of_lt (Nat.div_lt_of_lt_mul hd)]
  exact (Nat.div_eq_zero_iff).trans (or_iff_right (Nat.two_pow_pos n).ne')

/-- With bit 35 clear a word is made of its fields (R73). -/
theorem hostWord_of_fields (h : hostReserved w = false) : hostWord (hostKind w) (hostSlot w) (hostData w) = w := by
  apply BitVec.eq_of_getLsbD_eq
  intro n hn
  have h35 : w[35] = false := h
  simp only [hostWord, hostKind, hostSlot, hostData, BitVec.getLsbD_append, BitVec.getLsbD_extractLsb']
  interval_cases n <;> simp [h35]

/-- A word has bit 35 set, or it is made of a `KIND`, a `SLOT` and a `DATA` (R73). -/
theorem hostWord_cases (w : HostWord) : hostReserved w = true ∨ ∃ k slot d, w = hostWord k slot d := by
  cases h : hostReserved w
  · exact .inr ⟨_, _, _, (hostWord_of_fields h).symm⟩
  · exact .inl rfl

/-- The six kinds and the reserved ones (R73). -/
theorem kind_cases (k : BitVec 4) : k = 0 ∨ k = 1 ∨ k = 2 ∨ k = 3 ∨ k = 4 ∨ k = 5 ∨ 6 ≤ k.toNat := by
  revert k; decide

/-! ### The illegal command words -/

/-- The illegal command words are the numbers from 5 on (R74, R77 a). -/
theorem illegalCommandWord_iff (d : Word32) : illegalCommandWord d = true ↔ 5 ≤ d.toNat := by
  have hhigh := extractLsb'_upper_eq_zero_iff d (show 3 + 29 = 32 from rfl)
  have hop : (d.extractLsb' 0 3).toNat = d.toNat % 8 := by simp
  simp only [illegalCommandWord, Bool.or_eq_true, decide_eq_true_eq, bne_iff_ne, ne_eq,
    BitVec.ofNat_eq_ofNat, hhigh, hop]
  omega

/-- A command word is one of the five commands' or an illegal one (R74). -/
theorem commandWord_cases (d : Word32) :
    d = 0 ∨ d = 1 ∨ d = 2 ∨ d = 3 ∨ d = 4 ∨ illegalCommandWord d = true := by
  rw [illegalCommandWord_iff]
  bv_omega

/-- An illegal command word is none of the five commands' (R74). -/
theorem ne_of_illegalCommandWord {d : Word32} (h : illegalCommandWord d = true) :
    d ≠ 0 ∧ d ≠ 1 ∧ d ≠ 2 ∧ d ≠ 3 ∧ d ≠ 4 := by
  rw [illegalCommandWord_iff] at h
  refine ⟨?_, ?_, ?_, ?_, ?_⟩ <;> rintro rfl <;> simp at h

/-! ### What the decoder answers, kind by kind -/

theorem decode_of_reservedBit (h : hostReserved w = true) : decode w = .error .reservedBit := by
  simp [decode, h]

theorem decode_hostWord_rd (slot : Slot) (d : Word32) :
    decode (hostWord 0 slot d) = if d ≠ 0 then .error .dataNotZero else .ok (.rd slot) := by
  simp [decode]

theorem decode_hostWord_pushb (slot : Slot) (d : Word32) :
    decode (hostWord 2 slot d) =
      if slot ≠ 0 then .error .slotNotZero else if 2 ^ 9 ≤ d.toNat then .error .dataNotZero
      else .ok (.pushb (BinItem.ofData d)) := by
  simp [decode, checkUnused, extractLsb'_upper_eq_zero_iff d (show 9 + 23 = 32 from rfl)]

theorem decode_hostWord_pusht (slot : Slot) (d : Word32) :
    decode (hostWord 3 slot d) =
      if slot ≠ 0 then .error .slotNotZero else if 2 ^ 12 ≤ d.toNat then .error .dataNotZero
      else .ok (.pusht (Token.ofData d)) := by
  simp [decode, checkUnused, extractLsb'_upper_eq_zero_iff d (show 12 + 20 = 32 from rfl)]

theorem decode_hostWord_pops (slot : Slot) (d : Word32) :
    decode (hostWord 4 slot d) =
      if slot ≠ 0 then .error .slotNotZero else if d ≠ 0 then .error .dataNotZero else .ok .pops := by
  simp [decode, checkUnused]

theorem decode_hostWord_popb (slot : Slot) (d : Word32) :
    decode (hostWord 5 slot d) =
      if slot ≠ 0 then .error .slotNotZero else if d ≠ 0 then .error .dataNotZero else .ok .popb := by
  simp [decode, checkUnused]

theorem decode_hostWord_reservedKind {k : BitVec 4} (hk : 6 ≤ k.toNat) (slot : Slot) (d : Word32) :
    decode (hostWord k slot d) = .error .reservedKind := by
  simp only [decode, hostReserved_hostWord, hostKind_hostWord]
  split
  · contradiction
  · split
    case h_7 => rfl
    all_goals omega

/-! ### Words back from operations -/

/-- The bits of a value from `n` on are zero when it is below `2 ^ n`. -/
theorem getLsbD_of_toNat_lt {d : Word32} {n j : Nat} (h : d.toNat < 2 ^ n) (hj : n ≤ j) : d.getLsbD j = false :=
  Nat.testBit_eq_false_of_lt (h.trans_le (Nat.pow_le_pow_right (by decide) hj))

/-- A `DATA` within the 9 bits of a `BIN` item is its item's (R67, R73). -/
theorem BinItem.toData_ofData {d : Word32} (h : d.toNat < 2 ^ 9) : (BinItem.ofData d).toData = d := by
  apply BitVec.eq_of_getLsbD_eq
  intro j hj
  simp only [BinItem.toData, BinItem.ofData, BitVec.getLsbD_append]
  by_cases hj9 : j < 9
  · interval_cases j <;> simp
  · rw [getLsbD_of_toNat_lt h (Nat.le_of_not_lt hj9)]
    simp (disch := omega) only [if_neg, BitVec.getLsbD_zero]

/-- A `DATA` within the 12 bits of a token is its token's (R69, R73). -/
theorem Token.toData_ofData {d : Word32} (h : d.toNat < 2 ^ 12) : (Token.ofData d).toData = d := by
  apply BitVec.eq_of_getLsbD_eq
  intro j hj
  simp only [Token.toData, Token.ofData, BitVec.getLsbD_append]
  by_cases hj12 : j < 12
  · interval_cases j <;> simp
  · rw [getLsbD_of_toNat_lt h (Nat.le_of_not_lt hj12)]
    simp (disch := omega) only [if_neg, BitVec.getLsbD_zero]

/-- The `CMD` row of a command word is well formed, and its word carries that command word (R74). -/
theorem decodeCommand_spells (d : Word32) :
    (decodeCommand d).wellFormed = true ∧ encode (decodeCommand d) = hostWord 1 1 d := by
  rcases commandWord_cases d with rfl | rfl | rfl | rfl | rfl | h
  case inr.inr.inr.inr.inr =>
    rw [decodeCommand_of_illegal h]
    exact ⟨h, rfl⟩
  all_goals exact ⟨rfl, rfl⟩

/-- A decoded word is the only word of its operation, which is well formed: kind by kind (R73, R74). -/
theorem encode_of_decode (h : decode w = .ok i) : i.wellFormed = true ∧ encode i = w := by
  rcases hostWord_cases w with hr | ⟨k, slot, d, rfl⟩
  · simp [decode_of_reservedBit hr] at h
  rcases kind_cases k with rfl | rfl | rfl | rfl | rfl | rfl | hk
  · rw [decode_hostWord_rd] at h
    split at h <;> cases h
    next hd => exact ⟨rfl, by rw [not_not.mp hd]; rfl⟩
  · rw [decode_hostWord_write] at h
    split at h <;> cases h
    next hslot => exact hslot ▸ decodeCommand_spells d
    next hslot => exact ⟨bne_iff_ne.mpr hslot, rfl⟩
  · rw [decode_hostWord_pushb] at h
    split_ifs at h with hslot hd
    cases h
    exact ⟨rfl, by rw [encode, BinItem.toData_ofData (Nat.not_le.mp hd), not_not.mp hslot]⟩
  · rw [decode_hostWord_pusht] at h
    split_ifs at h with hslot hd
    cases h
    exact ⟨rfl, by rw [encode, Token.toData_ofData (Nat.not_le.mp hd), not_not.mp hslot]⟩
  · rw [decode_hostWord_pops] at h
    split_ifs at h with hslot hd
    cases h
    exact ⟨rfl, by rw [encode, not_not.mp hslot, not_not.mp hd]⟩
  · rw [decode_hostWord_popb] at h
    split_ifs at h with hslot hd
    cases h
    exact ⟨rfl, by rw [encode, not_not.mp hslot, not_not.mp hd]⟩
  · simp [decode_hostWord_reservedKind hk] at h

/-- Settles O1: field by field, the word of a well-formed operation decodes to it. -/
theorem decodeOfEncodeGivesBack : Obligations.DecodeOfEncodeGivesBack := fun _ => decode_encode

/-- Settles O2: the fields that decoding checks and reads are all the bits of the word. -/
theorem encodeOfDecodeGivesBack : Obligations.EncodeOfDecodeGivesBack := fun _ _ => encode_of_decode

/-- Settles O4: eight words of the spec's programs, read off their fields. -/
theorem programWordsDecode : Obligations.ProgramWordsDecode := by
  unfold Obligations.ProgramWordsDecode
  decide

/-! ### The refused words -/

/-- A check refuses, or what follows it does. -/
theorem exists_error_ite {c : Prop} [Decidable c] {e : WordError} {x : Except WordError Instr} :
    (∃ why, (if c then .error e else x) = .error why) ↔ c ∨ ∃ why, x = .error why := by
  by_cases hc : c <;> simp [hc]

/-- The words that R73 excludes: exactly those the decoder refuses. -/
theorem decode_error_iff (w : HostWord) :
    (∃ why, decode w = .error why) ↔
      (6 ≤ (hostKind w).toNat ∨ hostReserved w = true ∨
        (2 ≤ (hostKind w).toNat ∧ hostSlot w ≠ 0) ∨
        (((hostKind w).toNat = 0 ∨ (hostKind w).toNat = 4 ∨ (hostKind w).toNat = 5) ∧ hostData w ≠ 0) ∨
        ((hostKind w).toNat = 2 ∧ 2 ^ 9 ≤ (hostData w).toNat) ∨
        ((hostKind w).toNat = 3 ∧ 2 ^ 12 ≤ (hostData w).toNat)) := by
  rcases hostWord_cases w with hr | ⟨k, slot, d, rfl⟩
  · simp [decode_of_reservedBit hr, hr]
  simp only [hostKind_hostWord, hostReserved_hostWord, hostSlot_hostWord, hostData_hostWord]
  rcases kind_cases k with rfl | rfl | rfl | rfl | rfl | rfl | hk
  · rw [decode_hostWord_rd, exists_error_ite]
    simp
  · rw [decode_hostWord_write, ← apply_ite]
    simp
  · rw [decode_hostWord_pushb, exists_error_ite, exists_error_ite]
    simp
  · rw [decode_hostWord_pusht, exists_error_ite, exists_error_ite]
    simp
  · rw [decode_hostWord_pops, exists_error_ite, exists_error_ite]
    simp
  · rw [decode_hostWord_popb, exists_error_ite, exists_error_ite]
    simp
  · simp [decode_hostWord_reservedKind hk, hk]

end Sys2Proof

namespace Sys2Proof.Machine

/-- The host's turn refuses a word that spells no host operation, by name (R73, R77 e). -/
theorem hostStep_of_decode_error {s : State} {w : HostWord} {rest : List HostWord} {why : WordError}
    (hq : s.hostq = w :: rest) (hd : decode w = .error why) : hostStep s = .refused (.badHostWord why) := by
  simp only [hostStep, State.fetch, hq, List.head?_cons, hd]

/-- Settles O5: the decoder's refusals kind by kind, and the host's turn on a refused word. -/
theorem wordsThatSpellNothingAreRefused : Obligations.WordsThatSpellNothingAreRefused := by
  refine ⟨decode_error_iff, fun s w rest why hturn hq hd => ?_⟩
  rw [step_of_host hturn]
  exact hostStep_of_decode_error (s := s.nextTurn) hq hd

end Sys2Proof.Machine
end

section
/-! Proofs of the statements from 30_encoding.md: the opcode table's rows, read as fields, pick what the decoder
answers. -/

namespace Sys2Proof

variable {w : HostWord} {r : OpcodeRow}

/-! ### The table's rows as fields -/

/-- A row that fixes `KIND`, the reserved bit 35, the bits of `SLOT` under one mask and those of `DATA` under another:
every row of the table is one (`opcodeRows_eq`). -/
def fieldRow (mnemonic : String) (kind : BitVec 4) (slot slotMask : Slot) (data dataMask : Word32) : OpcodeRow :=
  ⟨mnemonic, (hostWord kind slot data).toNat, (0xF#4 ++ 1#1 ++ slotMask ++ dataMask).toNat⟩

theorem opcodeRows_eq : opcodeRows =
    [ fieldRow "RD" 0 0 0 0 0xFFFFFFFF, fieldRow "WR" 1 0 0 0 0,
      fieldRow "ENCODE" 1 1 7 0 0xFFFFFFFF, fieldRow "DECODE" 1 1 7 1 0xFFFFFFFF,
      fieldRow "CHECKSUM" 1 1 7 2 0xFFFFFFFF, fieldRow "PACK" 1 1 7 3 0xFFFFFFFF,
      fieldRow "UNPACK" 1 1 7 4 0xFFFFFFFF, fieldRow "CMD.ILLEGAL" 1 1 7 0 0,
      fieldRow "PUSHB" 2 0 7 0 0xFFFFFE00, fieldRow "PUSHT" 3 0 7 0 0xFFFFF000,
      fieldRow "POPS" 4 0 7 0 0xFFFFFFFF, fieldRow "POPB" 5 0 7 0 0xFFFFFFFF ] := by
  decide

theorem hostWord_inj {k k' : BitVec 4} {slot slot' : Slot} {d d' : Word32} :
    hostWord k slot d = hostWord k' slot' d' ↔ k = k' ∧ slot = slot' ∧ d = d' := by
  refine ⟨fun h => ?_, fun ⟨hk, hslot, hd⟩ => hk ▸ hslot ▸ hd ▸ rfl⟩
  exact ⟨by simpa using congrArg hostKind h, by simpa using congrArg hostSlot h, by simpa using congrArg hostData h⟩

section fieldRow

variable (mnemonic : String) (kind : BitVec 4) (slot slotMask : Slot) (data dataMask : Word32)

theorem fieldRow_hits_iff : (fieldRow mnemonic kind slot slotMask data dataMask).hits w = true ↔
    w &&& (0xF#4 ++ 1#1 ++ slotMask ++ dataMask) = hostWord kind slot data := by
  rw [fieldRow, OpcodeRow.hits, beq_iff_eq, ← BitVec.toNat_inj, BitVec.toNat_and]

/-- A word made of fields matches a row field by field. -/
theorem fieldRow_hits_hostWord (k : BitVec 4) (sl : Slot) (d : Word32) :
    (fieldRow mnemonic kind slot slotMask data dataMask).hits (hostWord k sl d) =
      decide (k = kind ∧ sl &&& slotMask = slot ∧ d &&& dataMask = data) := by
  have hmask : hostWord k sl d &&& (0xF#4 ++ 1#1 ++ slotMask ++ dataMask) =
      hostWord k (sl &&& slotMask) (d &&& dataMask) := by
    calc hostWord k sl d &&& (0xF#4 ++ 1#1 ++ slotMask ++ dataMask)
      _ = (k &&& 0xF#4) ++ (0#1 &&& 1#1) ++ (sl &&& slotMask) ++ (d &&& dataMask) := by
        rw [← BitVec.and_append, ← BitVec.and_append, ← BitVec.and_append]; rfl
      _ = hostWord k (sl &&& slotMask) (d &&& dataMask) := by
        rw [BitVec.zero_and, show k &&& 0xF#4 = k from BitVec.and_allOnes]; rfl
  rw [Bool.eq_iff_iff, fieldRow_hits_iff, hmask, hostWord_inj, decide_eq_true_iff]

/-- A word with bit 35 set matches no row. -/
theorem fieldRow_misses_reservedBit (h : hostReserved w = true) :
    (fieldRow mnemonic kind slot slotMask data dataMask).hits w = false := by
  rw [Bool.eq_false_iff, ne_eq, fieldRow_hits_iff]
  intro hw
  have h35 := congrArg hostReserved hw
  rw [hostReserved_hostWord, hostReserved, BitVec.getLsbD_and, show w.getLsbD 35 = true from h] at h35
  simp only [BitVec.getLsbD_append] at h35
  simp at h35

end fieldRow

/-- A value has no bit under the mask of the bits from `n` on exactly when it is below `2 ^ n`. -/
theorem and_upperMask_eq_zero_iff (d : Word32) (n : Nat) :
    d &&& (BitVec.allOnes 32 <<< n) = 0#32 ↔ d.toNat < 2 ^ n := by
  constructor
  · intro h
    refine Nat.lt_pow_two_of_testBit _ fun j hj => ?_
    by_cases hj32 : j < 32
    · have hbit := congrArg (·.getLsbD j) h
      have hshift : j - n < 32 := by omega
      rw [BitVec.testBit_toNat]
      simpa only [BitVec.getLsbD_zero, BitVec.getLsbD_and, BitVec.getLsbD_shiftLeft, BitVec.getLsbD_allOnes, hj32, hshift,
        Nat.not_lt.mpr hj, decide_true, decide_false, Bool.not_false, Bool.and_true] using hbit
    · exact BitVec.getLsbD_of_ge d j (Nat.le_of_not_lt hj32)
  · intro h
    apply BitVec.eq_of_getLsbD_eq
    intro j hj
    by_cases hjn : j < n
    · simp [hjn]
    · simp [getLsbD_of_toNat_lt h (Nat.le_of_not_lt hjn)]

@[simp] theorem and_slotMask (slot : Slot) : slot &&& 7#3 = slot := BitVec.and_allOnes

@[simp] theorem and_dataMask (d : Word32) : d &&& 0xFFFFFFFF#32 = d := BitVec.and_allOnes

/-- The bits that a `BIN` item leaves unused (R67, R73). -/
@[simp] theorem and_binMask_eq_zero_iff (d : Word32) : d &&& 0xFFFFFE00#32 = 0#32 ↔ d.toNat < 2 ^ 9 :=
  and_upperMask_eq_zero_iff d 9

/-- The bits that a `TIN` item leaves unused (R69, R73). -/
@[simp] theorem and_tinMask_eq_zero_iff (d : Word32) : d &&& 0xFFFFF000#32 = 0#32 ↔ d.toNat < 2 ^ 12 :=
  and_upperMask_eq_zero_iff d 12

/-! ### The most specific matching row -/

/-- One comparison of the rule that picks a row (R73): a row replaces the best so far when its mask has more bits. -/
def moreSpecific (best : Option OpcodeRow) (r : OpcodeRow) : Option OpcodeRow :=
  match best with
  | none => some r
  | some b => if b.maskBits < r.maskBits then some r else some b

/-- The rows that a word matches. -/
def hitRows (w : HostWord) : List OpcodeRow :=
  opcodeRows.filter fun r => r.hits w

theorem matchingRow_eq (w : HostWord) : matchingRow w = (hitRows w).foldl moreSpecific none := rfl

/-- Picking a row answers one of the rows, or the best so far. -/
theorem mem_of_foldl_moreSpecific {rows : List OpcodeRow} {best : Option OpcodeRow}
    (h : rows.foldl moreSpecific best = some r) : r ∈ rows ∨ best = some r := by
  induction rows generalizing best with
  | nil => exact .inr h
  | cons x rest ih =>
    rcases ih h with hr | hx
    · exact .inl (List.mem_cons_of_mem x hr)
    · unfold moreSpecific at hx
      split at hx
      · exact .inl (by simp_all)
      · split at hx
        · exact .inl (by simp_all)
        · exact .inr hx

theorem matchingRow_mem (h : matchingRow w = some r) : r ∈ opcodeRows := by
  rw [matchingRow_eq] at h
  rcases mem_of_foldl_moreSpecific h with hr | hnone
  · exact List.mem_of_mem_filter hr
  · cases hnone

/-! ### The matching rows, kind by kind -/

theorem hitRows_of_reservedBit (h : hostReserved w = true) : hitRows w = [] := by
  simp [hitRows, opcodeRows_eq, fieldRow_misses_reservedBit, h]

theorem hitRows_rd (slot : Slot) (d : Word32) :
    hitRows (hostWord 0 slot d) = if d ≠ 0 then [] else [fieldRow "RD" 0 0 0 0 0xFFFFFFFF] := by
  simp [hitRows, opcodeRows_eq, List.filter_cons, fieldRow_hits_hostWord]

theorem hitRows_wr {slot : Slot} (hslot : slot ≠ 1) (d : Word32) :
    hitRows (hostWord 1 slot d) = [fieldRow "WR" 1 0 0 0 0] := by
  simp_all [hitRows, opcodeRows_eq, fieldRow_hits_hostWord]

theorem hitRows_illegal {d : Word32} (h : illegalCommandWord d = true) :
    hitRows (hostWord 1 1 d) = [fieldRow "WR" 1 0 0 0 0, fieldRow "CMD.ILLEGAL" 1 1 7 0 0] := by
  have := ne_of_illegalCommandWord h
  simp_all [hitRows, opcodeRows_eq, fieldRow_hits_hostWord]

theorem hitRows_pushb (slot : Slot) (d : Word32) :
    hitRows (hostWord 2 slot d) =
      if slot ≠ 0 then [] else if 2 ^ 9 ≤ d.toNat then [] else [fieldRow "PUSHB" 2 0 7 0 0xFFFFFE00] := by
  split_ifs with hslot hd <;> simp_all [hitRows, opcodeRows_eq, fieldRow_hits_hostWord]

theorem hitRows_pusht (slot : Slot) (d : Word32) :
    hitRows (hostWord 3 slot d) =
      if slot ≠ 0 then [] else if 2 ^ 12 ≤ d.toNat then [] else [fieldRow "PUSHT" 3 0 7 0 0xFFFFF000] := by
  split_ifs with hslot hd <;> simp_all [hitRows, opcodeRows_eq, fieldRow_hits_hostWord]

theorem hitRows_pops (slot : Slot) (d : Word32) :
    hitRows (hostWord 4 slot d) =
      if slot ≠ 0 then [] else if d ≠ 0 then [] else [fieldRow "POPS" 4 0 7 0 0xFFFFFFFF] := by
  simp [hitRows, opcodeRows_eq, List.filter_cons, fieldRow_hits_hostWord, ite_and]

theorem hitRows_popb (slot : Slot) (d : Word32) :
    hitRows (hostWord 5 slot d) =
      if slot ≠ 0 then [] else if d ≠ 0 then [] else [fieldRow "POPB" 5 0 7 0 0xFFFFFFFF] := by
  simp [hitRows, opcodeRows_eq, List.filter_cons, fieldRow_hits_hostWord, ite_and]

theorem hitRows_reservedKind {k : BitVec 4} (hk : 6 ≤ k.toNat) (slot : Slot) (d : Word32) :
    hitRows (hostWord k slot d) = [] := by
  have hne : ∀ n < 6, k ≠ BitVec.ofNat 4 n := by
    rintro n hn rfl
    rw [BitVec.toNat_ofNat] at hk
    omega
  simp [hitRows, opcodeRows_eq, fieldRow_hits_hostWord, hne]

/-! ### The picked row and the decoder -/

/-- The row picked for a word that writes `CMD` is the command's. -/
theorem matchingRow_command (d : Word32) :
    (matchingRow (hostWord 1 1 d)).map OpcodeRow.mnemonic = some (decodeCommand d).mnemonic := by
  rcases commandWord_cases d with rfl | rfl | rfl | rfl | rfl | h
  case inr.inr.inr.inr.inr =>
    rw [decodeCommand_of_illegal h, matchingRow_eq, hitRows_illegal h]
    rfl
  all_goals decide

/-- On every word the picked row's mnemonic is the decoded operation's, and there is none where there is no operation. -/
theorem matchingRow_mnemonic (w : HostWord) :
    (matchingRow w).map OpcodeRow.mnemonic = (decode w).toOption.map Instr.mnemonic := by
  rcases hostWord_cases w with hr | ⟨k, slot, d, rfl⟩
  · rw [matchingRow_eq, hitRows_of_reservedBit hr, decode_of_reservedBit hr]
    rfl
  rcases kind_cases k with rfl | rfl | rfl | rfl | rfl | rfl | hk
  · rw [matchingRow_eq, hitRows_rd, decode_hostWord_rd]
    split_ifs <;> rfl
  · rw [decode_hostWord_write]
    split_ifs with hslot
    · exact hslot ▸ matchingRow_command d
    · rw [matchingRow_eq, hitRows_wr hslot]
      rfl
  · rw [matchingRow_eq, hitRows_pushb, decode_hostWord_pushb]
    split_ifs <;> rfl
  · rw [matchingRow_eq, hitRows_pusht, decode_hostWord_pusht]
    split_ifs <;> rfl
  · rw [matchingRow_eq, hitRows_pops, decode_hostWord_pops]
    split_ifs <;> rfl
  · rw [matchingRow_eq, hitRows_popb, decode_hostWord_popb]
    split_ifs <;> rfl
  · rw [matchingRow_eq, hitRows_reservedKind hk, decode_hostWord_reservedKind hk]
    rfl

/-- Settles O3: on every word the picked row and the decoder agree on the mnemonic, or both find nothing. -/
theorem tableRowDecides : Obligations.TableRowDecides := by
  refine ⟨fun w i hd => ?_, fun w why hd => ?_⟩
  · have hmn : (matchingRow w).map OpcodeRow.mnemonic = some i.mnemonic := by
      rw [matchingRow_mnemonic, hd]
      rfl
    obtain ⟨r, hr, hri⟩ := Option.map_eq_some_iff.mp hmn
    exact ⟨r, hr, matchingRow_mem hr, hri⟩
  · have hmn : (matchingRow w).map OpcodeRow.mnemonic = none := by
      rw [matchingRow_mnemonic, hd]
      rfl
    exact Option.map_eq_none_iff.mp hmn

end Sys2Proof
end

section
/-! Proofs of the statements from 30_encoding.md: the packet format, and the illegal command. -/

namespace Sys2Proof.Machine

/-! ### Padding and length -/

/-- R62: the fast variant's padding, `17 + 8n` being `9(n + 2) - (n + 1)`. -/
theorem padding_fast (p : List Byte) : padding false p = (p.length + 1) % 9 := by
  simp only [padding, totalBits, codecWidth, Bool.false_eq_true, if_false]
  omega

/-- R62: the strong variant's padding, `18 + 8n` being `9(n + 2) - n`. -/
theorem padding_strong (p : List Byte) : padding true p = p.length % 9 := by
  simp only [padding, totalBits, codecWidth, if_true]
  omega

theorem parityBit_eq_one_iff (strong : Bool) (p : List Byte) : parityBit strong p = 1 ↔ padding strong p = 8 := by
  unfold parityBit
  split <;> simp_all

theorem parityBit_le_one (strong : Bool) (p : List Byte) : parityBit strong p ≤ 1 := by
  unfold parityBit
  split <;> decide

/-- R63: the length in symbols is the number of bits before the padding, over 9 and rounded up. -/
theorem packet_symbols (strong : Bool) (p : List Byte) :
    (totalBits strong p + padding strong p) / 9 = (totalBits strong p + 8) / 9 := by
  unfold padding
  omega

/-- Settles O41: by the closed forms of the padding and the length in symbols. -/
theorem paddingAndLengthClosedForms : Obligations.PaddingAndLengthClosedForms := by
  intro p
  refine ⟨padding_fast p, padding_strong p, ?_, ?_, fun strong => ⟨packet_symbols strong p, ?_, fun q hq => ?_⟩⟩
  · rw [parityBit_eq_one_iff, padding_fast]
    omega
  · rw [parityBit_eq_one_iff, padding_strong]
  · rintro rfl
    cases strong <;> rfl
  · rw [packet_symbols, packet_symbols, totalBits, totalBits, hq]
    omega

/-! ### The packet's fields -/

/-- A checksum fits the `C` bits of its variant (R19, R85). -/
theorem checksum_lt (strong : Bool) (p : List Byte) : (checksum strong p).toNat < 2 ^ codecWidth strong := by
  cases strong
  · have hcrc : (crc16 p).toNat < 2 ^ 16 := (crc16 p).isLt
    simp only [checksum, codecWidth, Bool.false_eq_true, if_false, BitVec.toNat_setWidth]
    omega
  · exact (checksum true p).isLt

/-- The packet as arithmetic: parity bit, checksum, payload and padding, each shifted past what follows it (R61). -/
theorem packetBits_eq (strong : Bool) {chk : Chk} (hchk : chk.toNat < 2 ^ codecWidth strong) (p : List Byte) :
    packetBits strong chk p =
      ((parityBit strong p * 2 ^ codecWidth strong + chk.toNat) * 2 ^ (8 * p.length) + intBe p) *
        2 ^ padding strong p := by
  rw [packetBits, header, ← Nat.shiftLeft_add_eq_or_of_lt hchk, ← Nat.shiftLeft_add_eq_or_of_lt (intBe_lt p)]
  simp only [Nat.shiftLeft_eq]

/-- What is left of a number past a lower part that fits its width. -/
theorem shiftRight_lowerPart (a : Nat) {b n : Nat} (hb : b < 2 ^ n) : (a * 2 ^ n + b) >>> n = a := by
  rw [Nat.shiftRight_eq_div_pow, Nat.add_comm, Nat.add_mul_div_right _ _ (Nat.two_pow_pos n), Nat.div_eq_of_lt hb,
    Nat.zero_add]

/-- Bits below the `n`-th, read at `m` with width `k`, are those of the low `n` bits. -/
theorem mod_shiftRight_mod (x : Nat) {k m n : Nat} (h : m + k ≤ n) :
    ((x % 2 ^ n) >>> m) % 2 ^ k = (x >>> m) % 2 ^ k := by
  apply Nat.eq_of_testBit_eq
  intro j
  simp only [Nat.testBit_mod_two_pow, Nat.testBit_shiftRight]
  by_cases hj : j < k
  · simp [show m + j < n by omega]
  · simp [hj]

/-- Byte `i` of a byte string stands above the bytes that follow it (R12). -/
theorem intBe_byte {p : List Byte} {i : Nat} {b : Byte} (h : p[i]? = some b) :
    (intBe p >>> (8 * (p.length - 1 - i))) % 2 ^ 8 = b.toNat := by
  have hi : i < p.length := (List.getElem?_eq_some_iff.mp h).1
  have hb : (beBytes (intBe p) p.length)[i]? = some b := by rw [beBytes_intBe, h]
  simp only [beBytes, List.getElem?_map, List.getElem?_range hi, Option.map_some, Option.some.injEq] at hb
  rw [← hb, BitVec.toNat_ofNat]

section packet

variable (strong : Bool) {chk : Chk} (hchk : chk.toNat < 2 ^ codecWidth strong) (p : List Byte)
include hchk

/-- Past the padding stand the header and the payload. -/
theorem packetBits_past_padding :
    packetBits strong chk p >>> padding strong p =
      (parityBit strong p * 2 ^ codecWidth strong + chk.toNat) * 2 ^ (8 * p.length) + intBe p := by
  rw [packetBits_eq strong hchk]
  exact shiftRight_lowerPart _ (b := 0) (Nat.two_pow_pos _)

theorem packetBits_payload : (packetBits strong chk p >>> padding strong p) % 2 ^ (8 * p.length) = intBe p := by
  rw [packetBits_past_padding strong hchk, Nat.mul_add_mod_of_lt (intBe_lt p)]

/-- Past the payload stands the header, the parity bit above the checksum. -/
theorem packetBits_past_payload :
    packetBits strong chk p >>> (padding strong p + 8 * p.length) =
      parityBit strong p * 2 ^ codecWidth strong + chk.toNat := by
  rw [Nat.shiftRight_add, packetBits_past_padding strong hchk, shiftRight_lowerPart _ (intBe_lt p)]

theorem packetBits_checksum :
    (packetBits strong chk p >>> (padding strong p + 8 * p.length)) % 2 ^ codecWidth strong = chk.toNat := by
  rw [packetBits_past_payload strong hchk, Nat.mul_add_mod_of_lt hchk]

theorem packetBits_parity :
    packetBits strong chk p >>> (padding strong p + 8 * p.length + codecWidth strong) = parityBit strong p := by
  rw [Nat.shiftRight_add, packetBits_past_payload strong hchk, shiftRight_lowerPart _ hchk]

/-- The parity bit is the packet's top bit. -/
theorem packetBits_lt : packetBits strong chk p < 2 ^ (totalBits strong p + padding strong p) := by
  rw [← fits_iff, show totalBits strong p + padding strong p =
    padding strong p + 8 * p.length + codecWidth strong + 1 by unfold totalBits; omega,
    Nat.shiftRight_add, packetBits_parity strong hchk, fits_iff]
  exact Nat.lt_succ_of_le (parityBit_le_one strong p)

theorem packetBits_byte {i : Nat} {b : Byte} (h : p[i]? = some b) :
    (packetBits strong chk p >>> (padding strong p + 8 * (p.length - 1 - i))) % 2 ^ 8 = b.toNat := by
  have hi : i < p.length := (List.getElem?_eq_some_iff.mp h).1
  rw [Nat.shiftRight_add, ← mod_shiftRight_mod _ (show 8 * (p.length - 1 - i) + 8 ≤ 8 * p.length by omega),
    packetBits_payload strong hchk, intBe_byte h]

theorem packetBits_padding : packetBits strong chk p % 2 ^ padding strong p = 0 := by
  rw [packetBits_eq strong hchk, Nat.mul_mod_left]

end packet

/-- Settles O40: each field at its place in the packet as arithmetic; R61's positions count from the packet's top. -/
theorem packetFields : Obligations.PacketFields := by
  intro strong p C n pad L v
  have hchk := checksum_lt strong p
  have hL : L = pad + 8 * n + C + 1 := by simp only [L]; omega
  refine ⟨packet_aligned strong p, rfl, packetBits_lt strong hchk p, ?_, ?_, packetBits_payload strong hchk p,
    fun i b hb => ?_, packetBits_padding strong hchk p⟩
  · rw [show L - 1 = pad + 8 * n + C by omega]
    exact packetBits_parity strong hchk p
  · rw [show L - 1 - C = pad + 8 * n by omega]
    exact packetBits_checksum strong hchk p
  · have hi : i < n := (List.getElem?_eq_some_iff.mp hb).1
    rw [show L - 9 - C - 8 * i = pad + 8 * (n - 1 - i) by omega]
    exact packetBits_byte strong hchk p hb

/-! ### The illegal command -/

/-- A command word whose `CMD` row is `CMD.ILLEGAL` decodes to the illegal command: both read the same fields (R74,
R127). -/
theorem Cmd.ofWord_of_illegal {d : Word32} (h : illegalCommandWord d = true) : Cmd.ofWord d = .illegal := by
  have hrow := decodeCommand_of_illegal h
  unfold decodeCommand at hrow
  unfold Cmd.ofWord
  split_ifs at hrow ⊢
  · split at hrow <;> simp_all
  · rfl

/-- A failed command has no items, so its commit waits for no room and appends nothing (R130, R137). -/
theorem State.commit_of_fail {s : State} {e : ErrKind} {sub : Bool} (h : s.work.outv = OutV.fail e sub) :
    s.commit =
      { s with
        status := s.status.committed (OutV.fail e sub), result := 0, consumed := 0, outlen := 0
        fsm := .idle, work := Work.leftOver s.tick } := by
  rcases s.commit_cases with ⟨-, hc⟩ | ⟨hfull, -⟩
  · rw [hc, h]
    simp [OutV.fail, OutItems.toSout, OutItems.toBout]
  · rw [h] at hfull
    cases hfull

/-- A run goes on from where its first step leads. -/
theorem run_succ_of_step {s t : State} (h : step s = .next t) (n : Nat) :
    Host.Core.run Sys2Proof.core (n + 1) s = Host.Core.run Sys2Proof.core n t := by
  simp only [Host.Core.run, show Sys2Proof.core.step s = .next t from h]

theorem step_of_core {s : State} (h : s.turn = .core) : step s = .next s.nextTurn.coreStep := by
  simp only [step, h]

/-- Settles O55: the host's turn starts the illegal command, which is at once about to commit error 6, and the core's turn
commits that. -/
theorem illegalCommandCommitsErrorSix : Obligations.IllegalCommandCommitsErrorSix := by
  intro s data ops more hdata hidle hq hsched
  have hill : illegalCommandWord data = true := (illegalCommandWord_iff data).mpr hdata
  have hturn : s.turn = .host := by simp only [State.turn, hsched]
  have hhost : step s = .next (s.nextTurn.start .illegal).retire := by
    rw [stepRunsDecodedInstruction s _ _ _ hturn hq (decode_encode hill)]
    change Host.Outcome.next (s.nextTurn.cmdWrite (Cmd.ofWord data)).retire = _
    rw [Cmd.ofWord_of_illegal hill, State.cmdWrite_of_idle (s := s.nextTurn) hidle]
  obtain ⟨-, hstart⟩ | ⟨hne, -⟩ := s.nextTurn.start_cases .illegal
  case inr => exact absurd rfl hne
  have hcore : step (s.nextTurn.start .illegal).retire =
      .next (s.nextTurn.start .illegal).retire.nextTurn.commit := by
    rw [step_of_core (by simp [hstart, State.turn, hsched]), State.coreStep_of_commit (by simp [hstart])]
  have hcommit := State.commit_of_fail (s := (s.nextTurn.start .illegal).retire.nextTurn) (e := .illegalCommand)
    (sub := false) (by simp [hstart])
  refine ⟨_, by rw [run_succ_of_step hhost, run_succ_of_step hcore]; rfl, ?_⟩
  rw [hcommit, hstart]
  simp [hq, Status.committed, Status.accepted, OutV.fail, ErrKind.code]

end Sys2Proof.Machine
end

section
/-! Proofs of the statements from 40_checksum.md: the fast checksum, the truncated digest and the `CHECKSUM` command. -/

namespace Sys2Proof.Machine

/-! ### The fast checksum -/

/-- Settles O31: by evaluating the eight shifts of each of the nine bytes. -/
theorem crcCheckValue : Obligations.CrcCheckValue := by
  simp [Obligations.CrcCheckValue, crc16, crcByte, crcShifts, crcShift]

theorem crcShifts_zero (n : Nat) : crcShifts n 0 = 0 := by
  have hshift : crcShift 0 = 0 := by decide
  induction n with
  | zero => rfl
  | succ n ih => rw [crcShifts, hshift, ih]

/-- A zero byte leaves an all-zero register as it is. -/
theorem crcByte_zero_zero : crcByte 0 0 = 0 :=
  crcShifts_zero 8

theorem foldl_crcByte_zeros (k : Nat) : (List.replicate k (0 : Byte)).foldl crcByte 0 = 0 := by
  induction k with
  | zero => rfl
  | succ k ih => rw [List.replicate_succ, List.foldl_cons, crcByte_zero_zero, ih]

theorem crc16_zeros_append (k : Nat) (p : List Byte) : crc16 (List.replicate k 0 ++ p) = crc16 p := by
  rw [crc16, List.foldl_append, foldl_crcByte_zeros, crc16]

/-- Settles O32: after any number of leading zero bytes the register still holds its initial value. -/
theorem crcIgnoresLeadingZeros : Obligations.CrcIgnoresLeadingZeros :=
  ⟨rfl, foldl_crcByte_zeros, crc16_zeros_append⟩

/-! ### The truncated digest -/

theorem trunc17_toNat (d : Vector Byte 32) : (trunc17 d).toNat = intBe d.toList % 2 ^ 17 :=
  BitVec.toNat_ofNat _ _

/-- One more byte of a byte string goes below those before it (R12). -/
theorem intBe_take_succ {p : List Byte} {i : Nat} (h : i < p.length) :
    intBe (p.take (i + 1)) = intBe (p.take i) * 256 + p[i].toNat := by
  rw [← List.take_concat_get' p i h, intBe_append]

/-- The digest's last three bytes stand below the 29 before them. -/
theorem intBe_digest (d : Vector Byte 32) :
    intBe d.toList =
      ((intBe (d.toList.take 29) * 256 + d[29].toNat) * 256 + d[30].toNat) * 256 + d[31].toNat := by
  have hlen : d.toList.length = 32 := d.length_toList
  calc intBe d.toList
    _ = intBe (d.toList.take 32) := by rw [List.take_of_length_le hlen.le]
    _ = _ := by
      rw [intBe_take_succ (i := 31) (by omega), intBe_take_succ (i := 30) (by omega),
        intBe_take_succ (i := 29) (by omega)]
      simp only [Vector.getElem_toList]

/-- A bit above two bytes, as arithmetic. -/
theorem bit_or_bytes (x : Nat) (b c : Byte) :
    ((x &&& 1) <<< 16) ||| (b.toNat <<< 8) ||| c.toNat = x % 2 * 2 ^ 16 + (b.toNat * 2 ^ 8 + c.toNat) := by
  have hb : b.toNat < 2 ^ 8 := b.isLt
  have hc : c.toNat < 2 ^ 8 := c.isLt
  rw [Nat.or_assoc, ← Nat.shiftLeft_add_eq_or_of_lt hc, Nat.shiftLeft_eq b.toNat,
    ← Nat.shiftLeft_add_eq_or_of_lt (show b.toNat * 2 ^ 8 + c.toNat < 2 ^ 16 by omega), Nat.shiftLeft_eq,
    Nat.and_one_is_mod]

/-- Settles O33: 17 bits are the last two bytes and the lowest bit of the byte before them. -/
theorem truncationOfTheDigest : Obligations.TruncationOfTheDigest := by
  intro d
  constructor
  · rw [trunc17_toNat]
    exact (Nat.and_two_pow_sub_one_eq_mod _ 17).symm
  · have h30 : d[30].toNat < 256 := d[30].isLt
    have h31 : d[31].toNat < 256 := d[31].isLt
    rw [trunc17_toNat, intBe_digest, bit_or_bytes]
    omega

/-! ### The `CHECKSUM` command -/

/-- The checksum as a number: neither variant loses a bit in the 17 that hold it (R85). -/
theorem checksum_toNat (strong : Bool) (p : List Byte) :
    (checksum strong p).toNat = if strong then (trunc17 (Config.digest p)).toNat else (crc16 p).toNat := by
  cases strong
  · exact BitVec.toNat_setWidth_of_le (show 16 ≤ 17 by decide)
  · rfl

theorem checksumCmd_of_le {p : List Byte} (h : p.length ≤ Config.maxPayload) (lcfg : Word32) :
    checksumCmd lcfg p = OutV.success (checksum (csel lcfg) p).toNat 0 0 .none := by
  simp [checksumCmd, checksumOut, Nat.not_lt.mpr h]

theorem checksumCmd_of_gt {p : List Byte} (h : Config.maxPayload < p.length) (lcfg : Word32) :
    checksumCmd lcfg p = OutV.fail .capacity false := by
  simp [checksumCmd, checksumOut, h]

/-- Settles O34: within `P` bytes the command succeeds with the checksum, which fits `RESULT`; beyond them it fails. -/
theorem checksumCommandResult : Obligations.ChecksumCommandResult := by
  refine fun lcfg p => ⟨fun h => ?_, fun h => checksumCmd_of_gt h lcfg⟩
  rw [checksumCmd_of_le h]
  refine ⟨rfl, ?_, rfl, rfl, rfl, rfl⟩
  have hlt : (checksum (csel lcfg) p).toNat < 2 ^ 17 := (checksum (csel lcfg) p).isLt
  calc (BitVec.ofNat 32 (checksum (csel lcfg) p).toNat).toNat
    _ = (checksum (csel lcfg) p).toNat := by rw [BitVec.toNat_ofNat, Nat.mod_eq_of_lt (by omega)]
    _ = _ := checksum_toNat (csel lcfg) p

end Sys2Proof.Machine
end

section
/-! Proofs of the statements from 41_bitpacker.md: the Bit Packer and the `PACK` command. -/

namespace Sys2Proof.Machine

/-! ### The Bit Packer -/

/-- Nine more bits of length are one more group at the front; the groups behind it stand where they stood. -/
theorem pack_add_nine (v L : Nat) : pack v (L + 9) = BitVec.ofNat 9 (v >>> L) :: pack v L := by
  rw [pack, Nat.add_div_right L (by decide), List.range_succ_eq_map, List.map_cons, List.map_map, pack]
  congr 1
  apply List.map_congr_left
  intro i _
  rw [Function.comp_apply, show L + 9 - 9 * (i.succ + 1) = L - 9 * (i + 1) by omega]

theorem pack_add_nine_of_lt {v L : Nat} (h : v < 2 ^ L) : pack v (L + 9) = 0 :: pack v L := by
  rw [pack_add_nine, (fits_iff v L).mpr h]
  rfl

/-- Group `i` is the 9 bits of `v` that have `L - 9*(i+1)` bits below them (R90). -/
theorem pack_getD_toNat (v : Nat) {L i : Nat} (h : i < L / 9) :
    ((pack v L).getD i 0).toNat = v / 2 ^ (L - 9 * (i + 1)) % 2 ^ 9 := by
  have hi : i < (pack v L).length := by rwa [pack_length]
  rw [← List.getElem_eq_getD (h := hi) 0]
  simp only [pack, List.getElem_map, List.getElem_range, BitVec.toNat_ofNat, Nat.shiftRight_eq_div_pow]

/-- The low `m + 9` bits of a number are a group shifted past `m` bits, and the low `m` bits. -/
theorem mod_two_pow_add_nine (v m : Nat) :
    v % 2 ^ (m + 9) = (v / 2 ^ m % 2 ^ 9) <<< m + v % 2 ^ m := by
  rw [Nat.pow_add, Nat.mod_mul, Nat.shiftLeft_eq, Nat.mul_comm, Nat.add_comm]

/-- The first `k` groups spell `v` but for the bits below them. -/
theorem pack_partialSum_add_mod {v L : Nat} (hv : v < 2 ^ L) {k : Nat} (hk : k ≤ L / 9) :
    ((List.range k).map fun i => ((pack v L).getD i 0).toNat <<< (L - 9 * (i + 1))).sum + v % 2 ^ (L - 9 * k) = v := by
  induction k with
  | zero => simpa using Nat.mod_eq_of_lt hv
  | succ k ih =>
    have hlow : L - 9 * k = L - 9 * (k + 1) + 9 := by omega
    rw [List.range_succ, List.map_append, List.sum_append, List.map_singleton, List.sum_singleton,
      pack_getD_toNat v hk, Nat.add_assoc, ← mod_two_pow_add_nine, ← hlow]
    exact ih (by omega)

/-- All the groups spell `v`: no bits stand below the last one. -/
theorem pack_sum {v L : Nat} (hL : L % 9 = 0) (hv : v < 2 ^ L) :
    ((List.range (L / 9)).map fun i => ((pack v L).getD i 0).toNat <<< (L - 9 * (i + 1))).sum = v := by
  have hsum := pack_partialSum_add_mod hv (Nat.le_refl (L / 9))
  rwa [show L - 9 * (L / 9) = 0 by omega, Nat.pow_zero, Nat.mod_one, Nat.add_zero] at hsum

/-- Settles O35: a group is added at the front, and each group takes its bits from what those before it leave. -/
theorem packLaws : Obligations.PackLaws :=
  ⟨pack_length, fun _ => rfl, fun _ _ _ hv => pack_add_nine_of_lt hv, fun _ _ hL hv => pack_sum hL hv⟩

/-! ### The `PACK` command -/

/-- `PACK`'s width check as R93 writes it. -/
theorem not_fits_iff (v L : Nat) : v >>> L ≠ 0 ↔ 2 ^ L ≤ v := by
  rw [ne_eq, fits_iff, Nat.not_lt]

/-- Settles O36: the command makes the four checks in this order, the third by a shift; what it then answers is R93's
tuple by definition. -/
theorem packCommandResult : Obligations.PackCommandResult := by
  intro larg q
  simp only [packCmd, packOut, decide_eq_true_eq, not_fits_iff]
  rfl

end Sys2Proof.Machine
end

section
/-! Proofs of the statements from 42_bitunpacker.md: the Bit Unpacker, the `UNPACK` command and the working registers that
`COLLECT` fills. -/

namespace Sys2Proof.Machine

/-! ### The valid tokens at the front -/

/-- The tokens of a sequence that stand before its first one with `VALID = 0` (R97). -/
def validPrefix (toks : List Token) : List Token := toks.takeWhile fun t => t.valid

@[simp] theorem validPrefix_nil : validPrefix [] = [] := rfl

@[simp] theorem validPrefix_valid {t : Token} (h : t.valid = true) (rest : List Token) :
    validPrefix (t :: rest) = t :: validPrefix rest :=
  List.takeWhile_cons_of_pos h

@[simp] theorem validPrefix_absent {t : Token} (h : t.valid = false) (rest : List Token) :
    validPrefix (t :: rest) = [] :=
  List.takeWhile_cons_of_neg (by simp [h])

/-- `UNPACK`'s capacity check (R99). -/
theorem firstAllValid_succ_eq (n : Nat) (toks : List Token) :
    firstAllValid (n + 1) toks = decide (n < (validPrefix toks).length) := rfl

/-! ### The Bit Unpacker -/

theorem unpackFrom_validPrefix (u : Unpacked) (toks : List Token) :
    unpackFrom u (validPrefix toks) = unpackFrom u toks := by
  induction toks generalizing u with
  | nil => rfl
  | cons t rest ih =>
    rcases hv : t.valid with _ | _
    · simp [hv]
    · simp [hv, ih]

theorem unpackFrom_nsym (u : Unpacked) (toks : List Token) :
    (unpackFrom u toks).nsym = u.nsym + (validPrefix toks).length := by
  induction toks generalizing u with
  | nil => rfl
  | cons t rest ih =>
    rcases hv : t.valid with _ | _
    · simp [hv]
    · simp only [unpackFrom_valid _ _ _ hv, validPrefix_valid hv, ih, Unpacked.push_nsym, List.length_cons]
      omega

/-- R97's invariants of the unpacker's result. -/
structure Unpacked.Tight (u : Unpacked) : Prop where
  nbits_eq : u.nbits = 9 * u.nsym
  acc_lt : u.acc < 2 ^ u.nbits

theorem Unpacked.Tight.push {u : Unpacked} (h : u.Tight) (v : SymVal) : (u.push v).Tight where
  nbits_eq := by
    have hn := h.nbits_eq
    simp only [push_nbits, push_nsym]
    omega
  acc_lt := by
    have ha := h.acc_lt
    have hv : v.toNat < 512 := v.isLt
    rw [push_acc, push_nbits, Nat.pow_add]
    omega

theorem Unpacked.Tight.unpackFrom {u : Unpacked} (h : u.Tight) (toks : List Token) :
    (unpackFrom u toks).Tight := by
  induction toks generalizing u with
  | nil => exact h
  | cons t rest ih =>
    rcases hv : t.valid with _ | _
    · rwa [unpackFrom_absent _ _ _ hv]
    · rw [unpackFrom_valid _ _ _ hv]
      exact ih (h.push t.value)

theorem unpack_tight (toks : List Token) : (unpack toks).Tight :=
  Unpacked.Tight.unpackFrom ⟨rfl, Nat.one_pos⟩ toks

theorem unpack_nsym (toks : List Token) : (unpack toks).nsym = (validPrefix toks).length :=
  (unpackFrom_nsym _ toks).trans (Nat.zero_add _)

theorem unpack_nbits (toks : List Token) : (unpack toks).nbits = 9 * (validPrefix toks).length := by
  rw [(unpack_tight toks).nbits_eq, unpack_nsym]

/-- Settles O37: every shifted-in value keeps the counters and the accumulator in step, and the loop ends at the first
absent token. -/
theorem unpackInvariants : Obligations.UnpackInvariants := fun toks =>
  ⟨(unpack_tight toks).nbits_eq, (unpack_tight toks).acc_lt, unpack_nsym toks, (unpackFrom_validPrefix _ toks).symm⟩

/-! ### Unpacking what was packed -/

theorem unpackFrom_of_stops {rest : List Token} (h : StopsUnpacker rest) (u : Unpacked) : unpackFrom u rest = u := by
  cases rest with
  | nil => rfl
  | cons t rest => exact unpackFrom_absent u t rest (h t rfl)

/-- Shifting in the group above the low `m` bits, and then those bits, shifts in the low `m + 9` bits. -/
theorem push_group_then_low (a v m : Nat) :
    (a * 512 + (BitVec.ofNat 9 (v >>> m)).toNat) * 2 ^ m + v % 2 ^ m = a * 2 ^ (m + 9) + v % 2 ^ (m + 9) := by
  rw [mod_two_pow_add_nine, Nat.shiftLeft_eq, BitVec.toNat_ofNat, Nat.shiftRight_eq_div_pow, Nat.pow_add]
  ring

/-- Valid tokens that carry the `k` groups of `v` shift its low `9*k` bits in. -/
theorem unpackFrom_pack (v k : Nat) {u : Unpacked} {toks rest : List Token}
    (htoks : List.Forall₂ (fun x t => t.valid = true ∧ t.value = x) (pack v (9 * k)) toks)
    (hrest : StopsUnpacker rest) :
    unpackFrom u (toks ++ rest) =
      { acc := u.acc * 2 ^ (9 * k) + v % 2 ^ (9 * k), nbits := u.nbits + 9 * k, nsym := u.nsym + k } := by
  induction k generalizing u toks with
  | zero =>
    obtain rfl : toks = [] := List.forall₂_nil_left_iff.mp htoks
    simp [unpackFrom_of_stops hrest, Nat.mod_one]
  | succ k ih =>
    rw [Nat.mul_succ, pack_add_nine] at htoks
    obtain ⟨t, toks, ⟨hvalid, hvalue⟩, hmore, rfl⟩ := List.forall₂_cons_left_iff.mp htoks
    rw [List.cons_append, unpackFrom_valid _ _ _ hvalid, hvalue, ih hmore, Unpacked.push_acc,
      push_group_then_low, Unpacked.push_nbits, Unpacked.push_nsym, Nat.mul_succ]
    congr 1 <;> omega

/-- Settles O38: from an empty accumulator, all the groups of a number below `2^L` give that number. -/
theorem unpackInvertsPack : Obligations.UnpackInvertsPack := by
  intro v L toks absent rest hL hv htoks habsent
  obtain ⟨k, rfl⟩ : 9 ∣ L := Nat.dvd_of_mod_eq_zero hL
  have hstops : StopsUnpacker (absent :: rest) := by rintro t ⟨⟩; exact habsent
  rw [unpack, unpackFrom_pack v k htoks hstops, Nat.mod_eq_of_lt hv, Nat.mul_div_cancel_left k (by decide)]
  simp

/-! ### The `UNPACK` command -/

theorem unpackCmd_of_gt {toks : List Token} (h : Config.maxSymbols < (validPrefix toks).length) :
    unpackCmd toks = OutV.fail .capacity false := by
  simp [unpackCmd, unpackOut, firstAllValid_succ_eq, h]

theorem unpackCmd_of_le {toks : List Token} (h : (validPrefix toks).length ≤ Config.maxSymbols) :
    unpackCmd toks =
      let n := (validPrefix toks).length
      OutV.success (9 * n) n ((9 * n + 7) / 8) (.bytes (beBytes (unpack toks).acc ((9 * n + 7) / 8))) := by
  simp [unpackCmd, unpackOut, firstAllValid_succ_eq, Nat.not_lt.mpr h, unpack_nbits, unpack_nsym]

/-- The accumulator fits into `ceil(nbits / 8)` bytes (R97, R99). -/
theorem intBe_beBytes_unpack (toks : List Token) :
    intBe (beBytes (unpack toks).acc ((9 * (validPrefix toks).length + 7) / 8)) = (unpack toks).acc := by
  have hacc := (unpack_tight toks).acc_lt
  rw [unpack_nbits] at hacc
  rw [intBe_beBytes, Nat.mod_eq_of_lt]
  exact hacc.trans_le (Nat.pow_le_pow_right Nat.two_pos (by omega))

/-- Settles O39: within `S` valid tokens the bytes hold the whole accumulator, and no count reaches `2^32`, since
`S < 2^28`; beyond, the command fails. -/
theorem unpackCommandResult : Obligations.UnpackCommandResult := by
  refine fun toks => ⟨unpackCmd_of_gt, fun (h : (validPrefix toks).length ≤ Config.maxSymbols) => ?_⟩
  have hS := Config.maxSymbols_lt
  have hcount {x : Nat} (hx : x < 2 ^ 32) : (BitVec.ofNat 32 x).toNat = x := by
    rw [BitVec.toNat_ofNat, Nat.mod_eq_of_lt hx]
  rw [unpackCmd_of_le h]
  exact ⟨_, beBytes_length _ _, intBe_beBytes_unpack toks, rfl, rfl, rfl,
    hcount (by omega), hcount (by omega), hcount (by omega)⟩

/-! ### The step of the unpacker in hardware -/

namespace Work

variable {w : Work} {t : Token}

theorem feed_of_stopped (hs : w.stopped = true) (t : Token) : w.feed t = w := by
  simp [feed, hs]

theorem feed_of_absent (hs : w.stopped = false) (hv : t.valid = false) : w.feed t = { w with stopped := true } := by
  simp [feed, hs, hv]

theorem feed_of_room (hs : w.stopped = false) (hv : t.valid = true) (hn : w.nsym < Config.maxSymbols) :
    w.feed t =
      { w with acc := w.acc * 512 + t.value.toNat, nbits := w.nbits + 9, nsym := w.nsym + 1 } := by
  simp [feed, hs, hv, hn, Unpacked.push_acc, unpacked]

/-- While fewer than `S` values are in, the registers take one in as R94 does. -/
theorem feed_unpacked_of_room (hs : w.stopped = false) (hv : t.valid = true) (hn : w.nsym < Config.maxSymbols) :
    (w.feed t).unpacked = w.unpacked.push t.value := by
  simp [feed, hs, hv, hn, unpacked, Unpacked.push]

theorem feed_of_full (hs : w.stopped = false) (hv : t.valid = true) (hn : Config.maxSymbols ≤ w.nsym) :
    w.feed t = { w with symOver := w.symOver + 1 } := by
  simp [feed, hs, hv, Nat.not_lt.mpr hn]

theorem feed_firstTok (w : Work) (t : Token) : (w.feed t).firstTok = w.firstTok := by
  rcases w.feed_cases t with e | e | ⟨-, e⟩ | ⟨-, e⟩ <;> rw [e]

theorem takeToken_of_later {t₀ : Token} (h : w.firstTok = some t₀) (c : Cmd) (lcfg : Word32) (t : Token) :
    w.takeToken c lcfg t = w.feed t := by
  simp [takeToken, h]

/-- With `PFX = 1` the first token of a `DECODE` is kept and not fed (R128). -/
theorem takeToken_of_prefix {lcfg : Word32} (hf : w.firstTok = none) (hp : pfx lcfg = true) (t : Token) :
    w.takeToken .decode lcfg t = { w with firstTok := some t } := by
  simp [takeToken, hf, hp]

/-- Any other first token is kept and fed (R128). -/
theorem takeToken_of_first {c : Cmd} {lcfg : Word32} (hf : w.firstTok = none)
    (hp : ¬(c = .decode ∧ pfx lcfg = true)) (t : Token) :
    w.takeToken c lcfg t = { w with firstTok := some t }.feed t := by
  simp [takeToken, hf, hp]

end Work

theorem inPort_of_decode_or_unpack {c : Cmd} (h : c = .decode ∨ c = .unpack) : c.inPort = .tin := by
  rcases h with rfl | rfl <;> rfl

section collect

variable {s : State} {t : Token} {rest : List Token}

theorem State.coreStep_of_endToken (hfsm : s.fsm = .collect) (hport : s.lop.inPort = .tin) (htin : s.tin = t :: rest)
    (hend : t.isEnd = true) : s.coreStep = { s with tin := rest, fsm := .compute } := by
  simp [State.coreStep, hfsm, State.collect, hport, htin, hend]

theorem State.coreStep_of_token (hfsm : s.fsm = .collect) (hport : s.lop.inPort = .tin) (htin : s.tin = t :: rest)
    (hend : t.isEnd = false) :
    s.coreStep = { s with tin := rest, work := s.work.takeToken s.lop s.lcfg t } := by
  simp [State.coreStep, hfsm, State.collect, hport, htin, hend]

end collect

/-- Settles O24: a token after the first is fed to the unpacker, which has R95's four cases. -/
theorem collectFeedsTheUnpacker : Obligations.CollectFeedsTheUnpacker := by
  intro s t rest hfsm hlop htin
  have hport := inPort_of_decode_or_unpack hlop
  refine ⟨State.coreStep_of_endToken hfsm hport htin, fun hend t₀ hfirst => ?_⟩
  rw [State.coreStep_of_token hfsm hport htin hend, Work.takeToken_of_later hfirst]
  refine ⟨fun hs => ?_, fun hs hv => ?_, fun hs hv hn => ?_, fun hs hv hn => ?_⟩
  · rw [Work.feed_of_stopped hs]
  · rw [Work.feed_of_absent hs hv]
  · rw [Work.feed_of_room hs hv hn]
  · rw [Work.feed_of_full hs hv hn]

/-! ### The tokens that `COLLECT` takes -/

/-- The working registers after the unpacker has been fed these tokens (R95). -/
def Work.feedAll (w : Work) (toks : List Token) : Work := toks.foldl Work.feed w

namespace Work

variable {w : Work}

@[simp] theorem feedAll_nil (w : Work) : w.feedAll [] = w := rfl

@[simp] theorem feedAll_cons (w : Work) (t : Token) (rest : List Token) :
    w.feedAll (t :: rest) = (w.feed t).feedAll rest := rfl

theorem feedAll_of_stopped (hs : w.stopped = true) (toks : List Token) : w.feedAll toks = w := by
  induction toks with
  | nil => rfl
  | cons t rest ih => rw [feedAll_cons, feed_of_stopped hs, ih]

theorem feedAll_firstTok (w : Work) (toks : List Token) : (w.feedAll toks).firstTok = w.firstTok := by
  induction toks generalizing w with
  | nil => rfl
  | cons t rest ih => rw [feedAll_cons, ih, feed_firstTok]

/-- The valid tokens beyond the `S`-th are counted (R128). -/
theorem feedAll_symOver (toks : List Token) (hs : w.stopped = false) (hn : w.nsym ≤ Config.maxSymbols) :
    (w.feedAll toks).symOver = w.symOver + (w.nsym + (validPrefix toks).length - Config.maxSymbols) := by
  induction toks generalizing w with
  | nil => simp [Nat.sub_eq_zero_of_le hn]
  | cons t rest ih =>
    rcases hv : t.valid with _ | _
    · rw [feedAll_cons, feed_of_absent hs hv, feedAll_of_stopped rfl, validPrefix_absent hv, List.length_nil]
      dsimp only
      omega
    · rw [validPrefix_valid hv, List.length_cons, feedAll_cons]
      rcases hn.lt_or_eq with hroom | hfull
      · rw [feed_of_room hs hv hroom, ih]
        · dsimp only
          omega
        · exact hs
        · exact hroom
      · rw [feed_of_full hs hv hfull.ge, ih]
        · dsimp only
          omega
        · exact hs
        · exact hn

/-- While no more than `S` valid tokens come, the registers are the unpacker's result (R94, R95). -/
theorem feedAll_unpacked (toks : List Token) (hs : w.stopped = false)
    (hn : w.nsym + (validPrefix toks).length ≤ Config.maxSymbols) :
    (w.feedAll toks).unpacked = unpackFrom w.unpacked toks := by
  induction toks generalizing w with
  | nil => rfl
  | cons t rest ih =>
    rcases hv : t.valid with _ | _
    · rw [feedAll_cons, feed_of_absent hs hv, feedAll_of_stopped rfl, unpackFrom_absent _ _ _ hv]
      rfl
    · rw [validPrefix_valid hv, List.length_cons] at hn
      have hroom : w.nsym < Config.maxSymbols := by omega
      rw [feedAll_cons, unpackFrom_valid _ _ _ hv, ← feed_unpacked_of_room hs hv hroom, feed_of_room hs hv hroom]
      exact ih hs (by dsimp only; omega)

/-- The cleared registers with this first token kept, as the unpacker finds them at the first token it is fed (R128). -/
def startedWith (first : Option Token) : Work := { Work.cleared with firstTok := first }

@[simp] theorem startedWith_symOver (first : Option Token) : (startedWith first).symOver = 0 := rfl
@[simp] theorem startedWith_nsym (first : Option Token) : (startedWith first).nsym = 0 := rfl
@[simp] theorem startedWith_firstTok (first : Option Token) : (startedWith first).firstTok = first := rfl

/-- Fed a whole input from the start, the unpacker counts overflow exactly when the first `S + 1` tokens are all valid. -/
theorem startedWith_feedAll_symOver (first : Option Token) (toks : List Token) :
    (((startedWith first).feedAll toks).symOver != 0) =
      firstAllValid (Config.maxSymbols + 1) toks := by
  rw [feedAll_symOver toks rfl (Nat.zero_le _), firstAllValid_succ_eq, Bool.eq_iff_iff, bne_iff_ne,
    decide_eq_true_iff, startedWith_symOver, startedWith_nsym]
  omega

theorem startedWith_feedAll_unpacked (first : Option Token) {toks : List Token}
    (h : firstAllValid (Config.maxSymbols + 1) toks = false) :
    ((startedWith first).feedAll toks).unpacked = unpack toks := by
  rw [firstAllValid_succ_eq, decide_eq_false_iff_not, Nat.not_lt] at h
  exact feedAll_unpacked toks rfl (by simpa using h)

@[simp] theorem collectTokens_nil (w : Work) (c : Cmd) (lcfg : Word32) : w.collectTokens c lcfg [] = w := rfl

@[simp] theorem collectTokens_cons (w : Work) (c : Cmd) (lcfg : Word32) (t : Token) (rest : List Token) :
    w.collectTokens c lcfg (t :: rest) = (w.takeToken c lcfg t).collectTokens c lcfg rest :=
  List.foldl_cons ..

/-- After the first token `COLLECT` feeds every token to the unpacker (R128). -/
theorem collectTokens_of_firstTok {t₀ : Token} (h : w.firstTok = some t₀) (c : Cmd) (lcfg : Word32)
    (toks : List Token) : w.collectTokens c lcfg toks = w.feedAll toks := by
  induction toks generalizing w with
  | nil => rfl
  | cons t rest ih =>
    rw [collectTokens_cons, takeToken_of_later h, ih ((feed_firstTok w t).trans h), feedAll_cons]

/-- A first token that is fed is followed by all the others: `COLLECT` feeds the whole input (R128). -/
theorem collectTokens_of_no_prefix {c : Cmd} {lcfg : Word32} (hp : ¬(c = .decode ∧ pfx lcfg = true))
    (toks : List Token) : Work.cleared.collectTokens c lcfg toks = (startedWith toks.head?).feedAll toks := by
  cases toks with
  | nil => rfl
  | cons t rest =>
    rw [collectTokens_cons, takeToken_of_first rfl hp, collectTokens_of_firstTok (feed_firstTok _ _)]
    rfl

/-- `DECODE` feeds all tokens, or with `PFX = 1` all after the first (R128). -/
theorem collectTokens_decode (lcfg : Word32) (toks : List Token) :
    Work.cleared.collectTokens .decode lcfg toks =
      (startedWith toks.head?).feedAll (afterPrefix lcfg toks) := by
  rcases hp : pfx lcfg with _ | _
  · simp [collectTokens_of_no_prefix, afterPrefix, hp]
  · cases toks with
    | nil => simp [afterPrefix, startedWith, Work.cleared]
    | cons t rest =>
      rw [collectTokens_cons, takeToken_of_prefix rfl hp, collectTokens_of_firstTok rfl, afterPrefix, hp]
      rfl

end Work

/-! ### The bytes that `COLLECT` takes -/

namespace Work

@[simp] theorem collectBytes_nil (w : Work) : w.collectBytes [] = w := rfl

@[simp] theorem collectBytes_cons (w : Work) (b : Byte) (p : List Byte) :
    w.collectBytes (b :: p) = (w.keepByte b).collectBytes p :=
  List.foldl_cons ..

theorem collectBytes_of_le {w : Work} {p : List Byte} (h : w.inb.length + p.length ≤ Config.maxPayload) :
    w.collectBytes p = { w with inb := w.inb ++ p } := by
  induction p generalizing w with
  | nil => simp
  | cons b p ih =>
    rw [List.length_cons] at h
    have hkeep : w.keepByte b = { w with inb := w.inb ++ [b] } := by
      simp [keepByte, show w.inb.length < Config.maxPayload by omega]
    rw [collectBytes_cons, hkeep, ih (by simp only [List.length_append, List.length_singleton]; omega)]
    simp

/-- The bytes beyond the `P`-th are counted (R128). -/
theorem collectBytes_byteOver {w : Work} (p : List Byte) (h : w.inb.length ≤ Config.maxPayload) :
    (w.collectBytes p).byteOver = w.byteOver + (w.inb.length + p.length - Config.maxPayload) := by
  induction p generalizing w with
  | nil => simp [Nat.sub_eq_zero_of_le h]
  | cons b p ih =>
    rw [collectBytes_cons, List.length_cons]
    rcases w.keepByte_cases b with ⟨hroom, e⟩ | ⟨hfull, e⟩ <;> rw [e]
    · have hlen : (w.inb ++ [b]).length = w.inb.length + 1 := by simp
      rw [ih (hlen.trans_le hroom)]
      dsimp only
      omega
    · rw [ih]
      · dsimp only
        omega
      · exact h

theorem cleared_collectBytes_bytesOver (p : List Byte) :
    (Work.cleared.collectBytes p).bytesOver = decide (Config.maxPayload < p.length) := by
  rw [bytesOver, collectBytes_byteOver p (Nat.zero_le _), Bool.eq_iff_iff, bne_iff_ne, decide_eq_true_iff]
  simp only [cleared, List.length_nil]
  omega

theorem cleared_collectBytes_inb {p : List Byte} (h : p.length ≤ Config.maxPayload) :
    (Work.cleared.collectBytes p).inb = p := by
  rw [collectBytes_of_le (by simpa [cleared] using h)]
  rfl

end Work

/-! ### The pure function over the collected registers -/

/-- A byte command's pure function reads the collected bytes only when they are the whole input: the capacity check comes
first (R89, R93, R105). -/
theorem Work.pureOutcome_bytes {w : Work} {p : List Byte} (hover : w.bytesOver = decide (Config.maxPayload < p.length))
    (hinb : p.length ≤ Config.maxPayload → w.inb = p) {c : Cmd} (hc : c.inPort = .bin) (lcfg larg : Word32) :
    w.pureOutcome c lcfg larg = binCommand c lcfg larg p := by
  rcases Nat.lt_or_ge Config.maxPayload p.length with hgt | hle
  · have hmany : w.bytesOver = true := hover.trans (decide_eq_true hgt)
    cases c with
    | encode => simp [pureOutcome, toCheck, outcome, hmany, binCommand, encodeCmd, encodeOut, hgt]
    | checksum => simp [pureOutcome, toCheck, outcome, hmany, binCommand, checksumCmd, checksumOut, hgt]
    | pack => simp [pureOutcome, toCheck, outcome, hmany, binCommand, packCmd, packOut, hgt]
    | decode | unpack | illegal => nomatch hc
  · obtain rfl := hinb hle
    have hfits : ¬Config.maxPayload < w.inb.length := Nat.not_lt.mpr hle
    cases c with
    | encode => simp [pureOutcome, toCheck, outcome, hover, binCommand, encodeCmd, hfits]
    | checksum => simp [pureOutcome, toCheck, outcome, hover, binCommand, checksumCmd, hfits]
    | pack => simp [pureOutcome, toCheck, outcome, hover, binCommand, packCmd]
    | decode | unpack | illegal => nomatch hc

theorem unpackOut_congr {tooMany : Bool} {u u' : Unpacked} (h : tooMany = false → u = u') :
    unpackOut tooMany u = unpackOut tooMany u' := by
  cases tooMany
  · rw [h rfl]
  · rfl

/-- Decode's capacity check comes before the first use of the unpacked symbols (R106). -/
theorem parsePacket_congr (lcfg : Word32) (first : Option Token) {tooMany : Bool} {u u' : Unpacked}
    (h : tooMany = false → u = u') : parsePacket lcfg first tooMany u = parsePacket lcfg first tooMany u' := by
  cases tooMany
  · rw [h rfl]
  · rfl

/-- Steps 1 to 9 of R106 over the collected registers are those over the whole input. -/
theorem Work.parse_collectTokens (lcfg : Word32) (toks : List Token) :
    (Work.cleared.collectTokens .decode lcfg toks).parse lcfg = parseTokens lcfg toks := by
  rw [collectTokens_decode, parse, feedAll_firstTok, startedWith_firstTok, startedWith_feedAll_symOver]
  exact parsePacket_congr lcfg toks.head? (startedWith_feedAll_unpacked _)

/-- `DECODE` takes its result from what steps 1 to 9 of R106 give and the checksum they ask for (R129). -/
theorem Work.pureOutcome_decode (w : Work) (lcfg larg : Word32) {toks : List Token}
    (h : w.parse lcfg = parseTokens lcfg toks) : w.pureOutcome .decode lcfg larg = decodeCmd lcfg toks := by
  rcases hv : (parseTokens lcfg toks).toVerify with _ | bytes
  · simp [pureOutcome, toCheck, outcome, h, hv, decodeCmd, packetDecode]
  · simp [pureOutcome, toCheck, outcome, h, hv, decodeCmd, packetDecode]

theorem Work.pureOutcome_collectTokens_unpack (lcfg larg : Word32) (toks : List Token) :
    (Work.cleared.collectTokens .unpack lcfg toks).pureOutcome .unpack lcfg larg = unpackCmd toks := by
  rw [collectTokens_of_no_prefix (by simp)]
  simp only [pureOutcome, toCheck, outcome, startedWith_feedAll_symOver]
  exact unpackOut_congr (startedWith_feedAll_unpacked _)

/-- Settles O52: what the registers lose of an input beyond `P` or `S` is what the capacity check keeps every command
from reading. -/
theorem collectedRegistersGiveThePureFunction : Obligations.CollectedRegistersGiveThePureFunction := by
  constructor
  · intro c lcfg larg p hc
    exact Work.pureOutcome_bytes (Work.cleared_collectBytes_bytesOver p) Work.cleared_collectBytes_inb hc lcfg larg
  · intro c lcfg larg toks hc
    cases c with
    | decode => exact Work.pureOutcome_decode _ lcfg larg (Work.parse_collectTokens lcfg toks)
    | unpack => exact Work.pureOutcome_collectTokens_unpack lcfg larg toks
    | encode | checksum | pack | illegal => nomatch hc

end Sys2Proof.Machine
end

section
/-! Proofs of the statements from 43_codec_encode.md: the length of an encoding, and the commands that read `BIN` from
their start to their commit. -/

namespace Sys2Proof.Machine

/-! ### The length of an encoding -/

/-- R103: the symbols of the packet, and the sentinel when `PFX` is on. -/
theorem packetEncode_length (strong pfxOn : Bool) (p : List Byte) :
    (packetEncode strong pfxOn p).length = (totalBits strong p + 8) / 9 + (if pfxOn then 1 else 0) := by
  rw [packetEncode, packetWith, List.length_append, List.length_map, pack_length, packet_symbols, Nat.add_comm]
  cases pfxOn <;> rfl

/-- Settles O42: the packet's length in symbols, and R6's bound of `P` by `S`. -/
theorem encodedLength : Obligations.EncodedLength :=
  fun strong pfxOn p => ⟨packetEncode_length strong pfxOn p, packetWith_length_le strong pfxOn _⟩

variable {s t u : State} {more : List Turn}

/-! ### Runs and turns -/

/-- The machine's run of `n` steps from `s` ends in `t`. -/
def Runs (n : Nat) (s t : State) : Prop := Host.Core.run Sys2Proof.core n s = .next t

theorem Runs.refl (s : State) : Runs 0 s s := rfl

theorem Runs.head {n : Nat} (h : step s = .next u) (hn : Runs n u t) : Runs (n + 1) s t :=
  (run_succ_of_step h n).trans hn

theorem Runs.trans {m n : Nat} (hm : Runs m s u) (hn : Runs n u t) : Runs (m + n) s t := by
  induction m generalizing s with
  | zero =>
    obtain rfl : s = u := Host.Outcome.next.inj hm
    rwa [Nat.zero_add]
  | succ m ih =>
    simp only [Runs, Host.Core.run] at hm
    split at hm
    · next v hv =>
      rw [Nat.add_right_comm]
      exact .head hv (ih hm)
    · cases hm
    · cases hm

/-- The state at the next turn, with the turns that are left. -/
def State.inTurn (s : State) (more : List Turn) : State := { s with sched := more, tick := s.tick + 1 }

theorem State.nextTurn_eq_inTurn {a : Turn} (h : s.sched = a :: more) : s.nextTurn = s.inTurn more := by
  rw [State.nextTurn, h]
  rfl

theorem step_of_sched_core (h : s.sched = .core :: more) : step s = .next (s.inTurn more).coreStep := by
  rw [step_of_core (by simp only [State.turn, h]), State.nextTurn_eq_inTurn h]

theorem step_of_sched_digest (h : s.sched = .digest :: more) : step s = .next (s.inTurn more).digestAnswer := by
  simp only [step, State.turn, h, State.nextTurn_eq_inTurn h]

/-! ### From the start to `COMPUTE` -/

/-- The state after the host's `CMD` write of the legal command `c` in `IDLE`, with the host's words and the turns that
are left. -/
def State.started (s : State) (c : Cmd) (ops : List HostWord) (more : List Turn) : State :=
  { s.inTurn more with
    lop := c, lcfg := s.cfg, larg := s.arg, status := s.status.accepted, fsm := .collect, work := Work.cleared
    hostq := ops }

/-- The host's turn on the word of a legal command in `IDLE` starts that command (R55, R127). -/
theorem step_starts_command {i : Instr} {c : Cmd} {ops : List HostWord} (hi : i.wellFormed = true)
    (hexec : ∀ u, exec i u = .next (u.cmdWrite c).retire) (hc : c ≠ .illegal) (hidle : s.fsm = .idle)
    (hq : s.hostq = encode i :: ops) (hsched : s.sched = .host :: more) : step s = .next (s.started c ops more) := by
  have hturn : s.turn = .host := by simp only [State.turn, hsched]
  obtain ⟨hill, -⟩ | ⟨-, hstart⟩ := (s.inTurn more).start_cases c
  · exact absurd hill hc
  · rw [step_of_host hturn, State.nextTurn_eq_inTurn hsched,
      hostStep_of_decode (s := s.inTurn more) hq (decode_encode hi), hexec,
      State.cmdWrite_of_idle (s := s.inTurn more) hidle, hstart]
    simp [State.retire, State.started, State.inTurn, hq]

/-- A `BIN` command's state while it reads its input: what `COLLECT` changes of `s`, and the clock. -/
def State.reading (s : State) (bin : List BinItem) (fsm : Fsm) (w : Work) (sched : List Turn) (tick : Nat) : State :=
  { s with bin := bin, fsm := fsm, work := w, sched := sched, tick := tick }

section reading

variable {rest : List BinItem} (hport : s.lop.inPort = .bin) (w : Work) (tick : Nat)
include hport

/-- The core's turn in `COLLECT` pops a data byte (R128). -/
theorem step_collects_byte (b : Byte) :
    step (s.reading ({ byte := b, isEnd := false } :: rest) .collect w (.core :: more) tick) =
      .next (s.reading rest .collect (w.keepByte b) more (tick + 1)) := by
  rw [step_of_sched_core rfl]
  simp [State.coreStep, State.collect, State.inTurn, State.reading, hport]

/-- The core's turn in `COLLECT` pops the `END` (R128). -/
theorem step_collects_end {e : BinItem} (he : e.isEnd = true) :
    step (s.reading (e :: rest) .collect w (.core :: more) tick) =
      .next (s.reading rest .compute w more (tick + 1)) := by
  rw [step_of_sched_core rfl]
  simp [State.coreStep, State.collect, State.inTurn, State.reading, hport, he]

/-- The core's turns take the bytes one by one and then the `END` (R128). -/
theorem runs_collect_bytes (p : List Byte) {e : BinItem} (he : e.isEnd = true) :
    ∃ tick', Runs (p.length + 1)
      (s.reading ((p.map fun b => { byte := b, isEnd := false }) ++ e :: rest) .collect w
        (List.replicate (p.length + 1) .core ++ more) tick)
      (s.reading rest .compute (w.collectBytes p) more tick') := by
  induction p generalizing w tick with
  | nil => exact ⟨_, .head (step_collects_end hport w tick he) (.refl _)⟩
  | cons b p ih =>
    obtain ⟨tick', hruns⟩ := ih (w.keepByte b) (tick + 1)
    rw [Work.collectBytes_cons]
    exact ⟨tick', .head (step_collects_byte hport w tick b) hruns⟩

end reading

theorem Work.Collecting.collectBytes {w : Work} (h : w.Collecting) (p : List Byte) : (w.collectBytes p).Collecting := by
  induction p generalizing w with
  | nil => exact h
  | cons b p ih =>
    rw [Work.collectBytes_cons]
    exact ih (h.keepByte b)

/-! ### The outcome and the checksum -/

/-- An error found before the checksum is needed, or a command without one: the checksum is not read (R129). -/
theorem Work.outcome_of_no_check {w : Work} {c : Cmd} {lcfg : Word32} (h : w.toCheck c lcfg = none)
    (larg : Word32) (chk : Chk) : w.outcome c lcfg larg chk = w.pureOutcome c lcfg larg := by
  rw [pureOutcome, h]
  cases c with
  | encode =>
    have hover : w.bytesOver = true := by simpa [toCheck] using h
    simp only [outcome, hover, encodeOut, if_true]
  | checksum =>
    have hover : w.bytesOver = true := by simpa [toCheck] using h
    simp only [outcome, hover, checksumOut, if_true]
  | decode =>
    change (w.parse lcfg).toVerify = none at h
    simp only [outcome]
    cases hp : w.parse lcfg with
    | packet bytes retrieved consumed => rw [hp] at h; cases h
    | emptyShortcut | error => rfl
  | pack | unpack | illegal => rfl

/-- With the checksum that the command needs at hand, it commits what its pure function says (R129). -/
theorem Work.outcome_setChk {w : Work} {c : Cmd} {lcfg : Word32} {q : List Byte} (h : w.toCheck c lcfg = some q)
    (larg : Word32) :
    (w.setChk (checksum (csel lcfg) q)).outcome c lcfg larg (checksum (csel lcfg) q) = w.pureOutcome c lcfg larg := by
  rw [pureOutcome, h]
  cases c <;> rfl

/-! ### From `COMPUTE` to the commit -/

/-- The state after the commit of `o`, with what the command leaves behind that the host cannot see, and the turns that
are left. -/
def State.doneWith (s : State) (o : OutV) (dreq : List Byte) (w : Work) (more : List Turn) (tick : Nat) : State :=
  { s with
    sout := s.sout ++ o.items.toSout, bout := s.bout ++ o.items.toBout, status := s.status.committed o
    result := o.result, consumed := o.consumed, outlen := o.outlen, fsm := .idle
    dreq := dreq, work := w, sched := more, tick := tick }

/-- The core's turn in `COMMIT`, with room for the items (R130). -/
theorem step_commits (hfsm : s.fsm = .commit) (hroom : s.hasRoom s.work.outv.items = true)
    (hsched : s.sched = .core :: more) :
    ∃ w tick, step s = .next (s.doneWith s.work.outv s.dreq w more tick) := by
  rw [step_of_sched_core hsched, State.coreStep_of_commit (s := s.inTurn more) hfsm]
  obtain ⟨-, hc⟩ | ⟨hfull, -⟩ := (s.inTurn more).commit_cases
  · exact ⟨_, _, congrArg Host.Outcome.next hc⟩
  · exact absurd (hroom.symm.trans hfull) (by decide)

/-- The core's turn in `COMPUTE` decides `OUTV` when the checksum is at hand or not needed (R129). -/
theorem step_finishes (hfsm : s.fsm = .compute) (hd : s.dpend = false)
    (hdecided : s.work.toCheck s.lop s.lcfg = none ∨ s.work.chkDone = true) (hsched : s.sched = .core :: more) :
    step s = .next (s.inTurn more).finish := by
  rw [step_of_sched_core hsched]
  rcases hdecided with h | h
  · simp [State.coreStep, State.compute, State.inTurn, hfsm, hd, h]
  · rcases hq : s.work.toCheck s.lop s.lcfg with _ | q <;>
      simp [State.coreStep, State.compute, State.inTurn, hfsm, hd, h, hq]

/-- The provider's turn without an outstanding request (R141). -/
theorem step_of_no_request (hd : s.dpend = false) (hsched : s.sched = .digest :: more) :
    step s = .next (s.inTurn more) := by
  rw [step_of_sched_digest hsched]
  simp [State.digestAnswer, State.inTurn, hd]

/-- From `COMPUTE` with the checksum at hand two turns of the core lead through `COMMIT` to `IDLE` (R129, R130). -/
theorem runs_checked {o : OutV} (hfsm : s.fsm = .compute) (hd : s.dpend = false) (hk : s.work.chkDone = true)
    (ho : s.work.outcome s.lop s.lcfg s.larg s.work.chk = o) (hroom : s.hasRoom o.items = true)
    (hsched : s.sched = .core :: .core :: more) : ∃ w tick, Runs 2 s (s.doneWith o s.dreq w more tick) := by
  subst ho
  obtain ⟨w, tick, hcommit⟩ := step_commits (s := (s.inTurn (.core :: more)).finish) rfl hroom rfl
  exact ⟨w, tick, .head (step_finishes hfsm hd (.inr hk) hsched) (.head hcommit (.refl _))⟩

/-- From `COMPUTE` without need of a checksum the core's turns lead through `COMMIT` to `IDLE`; the provider's turn and
the core's last one change nothing (R129, R130). -/
theorem runs_unchecked {o : OutV} (hfsm : s.fsm = .compute) (hd : s.dpend = false)
    (hq : s.work.toCheck s.lop s.lcfg = none) (ho : s.work.outcome s.lop s.lcfg s.larg s.work.chk = o)
    (hroom : s.hasRoom o.items = true) (hsched : s.sched = .core :: .digest :: .core :: .core :: more) :
    ∃ w tick, Runs 4 s (s.doneWith o s.dreq w more tick) := by
  subst ho
  have hfinish := step_finishes hfsm hd (.inl hq) hsched
  have hwait := step_of_no_request (s := (s.inTurn (.digest :: .core :: .core :: more)).finish) hd rfl
  obtain ⟨w, tick, hcommit⟩ := step_commits
    (s := (s.inTurn (.digest :: .core :: .core :: more)).finish.inTurn (.core :: .core :: more)) rfl hroom rfl
  exact ⟨w, _, .head hfinish (.head hwait (.head hcommit (.head (step_of_sched_core rfl) (.refl _))))⟩

/-- The state with the checksum that the command needs at hand, and the turns that are left. -/
def State.checked (s : State) (q dreq : List Byte) (more : List Turn) (tick : Nat) : State :=
  { s with dreq := dreq, work := s.work.setChk (checksum (csel s.lcfg) q), sched := more, tick := tick }

/-- A needed checksum is there after a turn of the core and one of the provider: the fast one from the core, which
leaves the provider nothing to do, the strong one from the provider (R87, R129, R141). -/
theorem runs_to_checksum {q : List Byte} (hfsm : s.fsm = .compute) (hd : s.dpend = false)
    (hk : s.work.chkDone = false) (hq : s.work.toCheck s.lop s.lcfg = some q)
    (hsched : s.sched = .core :: .digest :: more) : ∃ dreq tick, Runs 2 s (s.checked q dreq more tick) := by
  have hcore := step_of_sched_core hsched
  rcases hs : csel s.lcfg with _ | _
  · have hfast : (s.inTurn (.digest :: more)).coreStep = s.checked q s.dreq (.digest :: more) (s.tick + 1) := by
      simp [State.coreStep, State.compute, State.inTurn, State.checked, hfsm, hd, hk, hq, hs]
    rw [hfast] at hcore
    have hwait := step_of_no_request (s := s.checked q s.dreq (.digest :: more) (s.tick + 1)) hd rfl
    exact ⟨_, _, .head hcore (.head hwait (.refl _))⟩
  · have hask : (s.inTurn (.digest :: more)).coreStep = (s.inTurn (.digest :: more)).askDigest q := by
      simp [State.coreStep, State.compute, State.inTurn, hfsm, hd, hk, hq, hs]
    rw [hask] at hcore
    have hanswer : step ((s.inTurn (.digest :: more)).askDigest q) = .next (s.checked q [] more (s.tick + 2)) := by
      rw [step_of_sched_digest rfl]
      simp [State.digestAnswer, State.inTurn, State.askDigest, State.checked, checksum, hs, hd]
    exact ⟨_, _, .head hcore (.head hanswer (.refl _))⟩

/-- From `COMPUTE` the turns of the core and the provider lead to the commit of the command's pure function, whether or
not it needs a checksum (R129, R130, R131, R141). -/
theorem runs_compute {o : OutV} (hfsm : s.fsm = .compute) (hd : s.dpend = false) (hk : s.work.chkDone = false)
    (ho : s.work.pureOutcome s.lop s.lcfg s.larg = o) (hroom : s.hasRoom o.items = true)
    (hsched : s.sched = .core :: .digest :: .core :: .core :: more) :
    ∃ dreq w tick, Runs 4 s (s.doneWith o dreq w more tick) := by
  rcases hq : s.work.toCheck s.lop s.lcfg with _ | q
  · obtain ⟨w, tick, hruns⟩ := runs_unchecked hfsm hd hq ((Work.outcome_of_no_check hq _ _).trans ho) hroom hsched
    exact ⟨_, w, tick, hruns⟩
  · obtain ⟨dreq, tick₁, hchecked⟩ := runs_to_checksum hfsm hd hk hq hsched
    obtain ⟨w, tick, hdone⟩ := runs_checked (s := s.checked q dreq (.core :: .core :: more) tick₁) hfsm hd rfl
      ((Work.outcome_setChk hq s.larg).trans ho) hroom rfl
    exact ⟨dreq, w, tick, hchecked.trans hdone⟩

/-! ### The commands that read `BIN` -/

/-- The three commands that read `BIN`: their words are well formed and their operations write `CMD` (R74, R76). -/
theorem binInstr_writes {i : Instr} {c : Cmd}
    (h : i = .encode ∧ c = .encode ∨ i = .checksum ∧ c = .checksum ∨ i = .pack ∧ c = .pack) :
    i.wellFormed = true ∧ c.inPort = .bin ∧ ∀ u, exec i u = .next (u.cmdWrite c).retire := by
  rcases h with ⟨rfl, rfl⟩ | ⟨rfl, rfl⟩ | ⟨rfl, rfl⟩ <;> exact ⟨rfl, rfl, fun _ => rfl⟩

/-- A `BIN` command that has just started, with its input and the `END` in `BIN`, runs to the commit of its pure
function: that is what the collected registers give (R128 to R131). -/
theorem runs_bin_command {p : List Byte} {e : BinItem} {rest : List BinItem} (hfsm : s.fsm = .collect)
    (hport : s.lop.inPort = .bin) (hw : s.work = Work.cleared) (hd : s.dpend = false)
    (hbin : s.bin = (p.map fun b => { byte := b, isEnd := false }) ++ e :: rest) (he : e.isEnd = true)
    (hsched : s.sched = commandTurns p.length ++ more)
    (hroom : s.hasRoom (binCommand s.lop s.lcfg s.larg p).items = true) :
    ∃ dreq w tick, Runs (p.length + 5) s
      ({ s with bin := rest }.doneWith (binCommand s.lop s.lcfg s.larg p) dreq w more tick) := by
  obtain ⟨tick₁, hcollect⟩ := runs_collect_bytes (rest := rest) (more := [.core, .digest, .core, .core] ++ more)
    hport Work.cleared s.tick p he
  rw [commandTurns, List.append_assoc] at hsched
  rw [← hbin, ← hsched, ← hfsm, ← hw] at hcollect
  have ho := collectedRegistersGiveThePureFunction.1 s.lop s.lcfg s.larg p hport
  have hk := (Work.cleared_collecting.collectBytes p).chkDone
  rw [← hw] at ho hk
  obtain ⟨dreq, w, tick, hcompute⟩ :=
    runs_compute (more := more) (s := s.reading rest .compute _ _ tick₁) rfl hd hk ho hroom rfl
  have hruns := hcollect.trans hcompute
  exact ⟨dreq, w, tick, hruns⟩

/-- Settles O53: the host's turn starts the command, and the turns after it lead to its commit. -/
theorem binCommandsCommitTheirPureFunction : Obligations.BinCommandsCommitTheirPureFunction := by
  intro s i c p e rest ops more hi hidle hd hq hbin he hsched hroom
  obtain ⟨hwf, hport, hexec⟩ := binInstr_writes hi
  have hlegal : c ≠ .illegal := by rintro rfl; cases hport
  have hstart := step_starts_command hwf hexec hlegal hidle hq hsched
  obtain ⟨dreq, w, tick, hcommand⟩ :=
    runs_bin_command (s := s.started c ops _) rfl hport rfl hd hbin he rfl hroom
  have hruns : Runs (p.length + 6) s _ := .head hstart hcommand
  exact ⟨_, hruns, ⟨rfl, rfl, rfl, rfl, rfl, rfl, rfl⟩, rfl, rfl, rfl, rfl, hd, rfl, rfl, rfl⟩

end Sys2Proof.Machine
end

section
/-! Proofs of the statements from 44_codec_decode.md: the fields of a received packet, and the steps of decode. -/

namespace Sys2Proof.Machine

variable {strong : Bool} {start : Nat} {u v : Unpacked}

/-! ### The fields of a received packet -/

theorem codecWidth_le (strong : Bool) : codecWidth strong ≤ 17 := by
  cases strong <;> decide

theorem codecWidth_ge (strong : Bool) : 16 ≤ codecWidth strong := by
  cases strong <;> decide

/-- Byte strings of one length are the same when they spell the same number (R12). -/
theorem eq_of_intBe_eq {p q : List Byte} (hlen : p.length = q.length) (h : intBe p = intBe q) : p = q := by
  rw [← beBytes_intBe p, ← beBytes_intBe q, hlen, h]

theorem payloadIntPadded_eq (strong : Bool) (u : Unpacked) :
    payloadIntPadded strong u = u.acc % 2 ^ payloadBitsPadded strong u := by
  rw [payloadIntPadded, Nat.one_shiftLeft, Nat.and_two_pow_sub_one_eq_mod]

/-- The retrieved checksum is the low `C` bits of the header; 17 bits hold them (R112). -/
theorem retrievedChecksum_toNat (strong : Bool) (u : Unpacked) :
    (retrievedChecksum strong u).toNat = headerInt strong u % 2 ^ codecWidth strong := by
  have hlt : headerInt strong u % 2 ^ codecWidth strong < 2 ^ codecWidth strong := Nat.mod_lt _ (Nat.two_pow_pos _)
  rw [retrievedChecksum, Nat.one_shiftLeft, Nat.and_two_pow_sub_one_eq_mod, BitVec.toNat_ofNat,
    Nat.mod_eq_of_lt (hlt.trans_le (Nat.pow_le_pow_right Nat.two_pos (codecWidth_le strong)))]

/-- R113: the residue is read as 8 when it is 0 and the parity bit is 1, and as it stands otherwise. -/
theorem paddingBits_cases (strong : Bool) (u : Unpacked) :
    (payloadBitsPadded strong u % 8 = 0 ∧ receivedParity strong u = 1 ∧ paddingBits strong u = 8) ∨
    (¬(payloadBitsPadded strong u % 8 = 0 ∧ receivedParity strong u = 1) ∧
      paddingBits strong u = payloadBitsPadded strong u % 8) := by
  by_cases h : payloadBitsPadded strong u % 8 = 0 ∧ receivedParity strong u = 1
  · exact .inl ⟨h.1, h.2, if_pos h⟩
  · exact .inr ⟨h, if_neg h⟩

theorem paddingBits_of_residue (h : payloadBitsPadded strong u % 8 ≠ 0) :
    paddingBits strong u = payloadBitsPadded strong u % 8 :=
  if_neg fun hboth => h hboth.1

theorem paddingBits_congr (hbits : payloadBitsPadded strong u = payloadBitsPadded strong v)
    (hparity : receivedParity strong u = receivedParity strong v) : paddingBits strong u = paddingBits strong v := by
  simp only [paddingBits, hbits, hparity]

/-- R114: the padding exceeds the bits there are only as 8 over 0. -/
theorem lt_paddingBits_iff (strong : Bool) (u : Unpacked) :
    payloadBitsPadded strong u < paddingBits strong u ↔
      payloadBitsPadded strong u = 0 ∧ receivedParity strong u = 1 := by
  rcases paddingBits_cases strong u with ⟨hres, hparity, h⟩ | ⟨hnot, h⟩ <;> omega

/-- R113: past the padding the payload is whole bytes, so none of its bits is dropped. -/
theorem recoveredBytes_length (h : paddingBits strong u ≤ payloadBitsPadded strong u) :
    8 * (recoveredBytes strong u).length + paddingBits strong u = payloadBitsPadded strong u := by
  simp only [recoveredBytes, beBytes_length]
  rcases paddingBits_cases strong u with ⟨hres, -, hpad⟩ | ⟨-, hpad⟩ <;> omega

/-- R115: the recovered bytes are the accumulator's bits past the padding. -/
theorem intBe_recoveredBytes (h : paddingBits strong u ≤ payloadBitsPadded strong u) :
    intBe (recoveredBytes strong u) =
      (u.acc >>> paddingBits strong u) % 2 ^ (8 * (recoveredBytes strong u).length) := by
  have hlen := recoveredBytes_length h
  calc intBe (recoveredBytes strong u)
    _ = (payloadIntPadded strong u >>> paddingBits strong u) % 2 ^ (8 * (recoveredBytes strong u).length) := by
      simp only [recoveredBytes, intBe_beBytes, beBytes_length]
    _ = _ := by rw [payloadIntPadded_eq, mod_shiftRight_mod _ (by omega)]

theorem payloadBitsPadded_congr (h : u.nbits = v.nbits) : payloadBitsPadded strong u = payloadBitsPadded strong v := by
  rw [payloadBitsPadded, payloadBitsPadded, h]

/-- The recovered bytes depend on the accumulator only through the bits past the padding. -/
theorem recoveredBytes_congr (hbits : payloadBitsPadded strong u = payloadBitsPadded strong v)
    (hpad : paddingBits strong u = paddingBits strong v) (h : paddingBits strong u ≤ payloadBitsPadded strong u)
    (hacc : (u.acc >>> paddingBits strong u) % 2 ^ (payloadBitsPadded strong u - paddingBits strong u) =
      (v.acc >>> paddingBits strong u) % 2 ^ (payloadBitsPadded strong u - paddingBits strong u)) :
    recoveredBytes strong u = recoveredBytes strong v := by
  have hu := recoveredBytes_length h
  have hv := recoveredBytes_length (hpad ▸ hbits ▸ h : paddingBits strong v ≤ payloadBitsPadded strong v)
  have hlen : (recoveredBytes strong u).length = (recoveredBytes strong v).length := by omega
  apply eq_of_intBe_eq hlen
  rw [intBe_recoveredBytes h, intBe_recoveredBytes (by omega), ← hlen, ← hpad,
    show 8 * (recoveredBytes strong u).length = payloadBitsPadded strong u - paddingBits strong u by omega, hacc]

/-! ### Steps 4 to 9 -/

/-- Where steps 4 to 9 of R106 end. -/
theorem parseBits_cases (strong : Bool) (start : Nat) (u : Unpacked) :
    (u.nbits = 0 ∧ parseBits strong start u = .error .shortPacket true) ∨
    (u.nbits ≠ 0 ∧ u.nbits < 1 + codecWidth strong ∧ parseBits strong start u = .error .shortPacket false) ∨
    (1 + codecWidth strong ≤ u.nbits ∧ payloadBitsPadded strong u < paddingBits strong u ∧
      parseBits strong start u = .error .invalidPadding false) ∨
    (1 + codecWidth strong ≤ u.nbits ∧ paddingBits strong u ≤ payloadBitsPadded strong u ∧
      parseBits strong start u =
        .packet (recoveredBytes strong u) (retrievedChecksum strong u) (start + u.nsym)) := by
  unfold parseBits
  split_ifs with hnone hshort hpad
  · exact .inl ⟨hnone, rfl⟩
  · exact .inr (.inl ⟨hnone, hshort, rfl⟩)
  · exact .inr (.inr (.inl ⟨Nat.le_of_not_lt hshort, hpad, rfl⟩))
  · exact .inr (.inr (.inr ⟨Nat.le_of_not_lt hshort, Nat.le_of_not_lt hpad, rfl⟩))

theorem parseBits_of_none (strong : Bool) (start : Nat) (h : u.nbits = 0) :
    parseBits strong start u = .error .shortPacket true :=
  if_pos h

theorem parseBits_of_short (start : Nat) (h : u.nbits ≠ 0) (hshort : u.nbits < 1 + codecWidth strong) :
    parseBits strong start u = .error .shortPacket false := by
  simp only [parseBits, if_neg h, if_pos hshort]

theorem parseBits_of_packet (start : Nat) (h : 1 + codecWidth strong ≤ u.nbits)
    (hpad : paddingBits strong u ≤ payloadBitsPadded strong u) :
    parseBits strong start u =
      .packet (recoveredBytes strong u) (retrievedChecksum strong u) (start + u.nsym) := by
  rcases parseBits_cases strong start u with ⟨hnone, -⟩ | ⟨-, hshort, -⟩ | ⟨-, hlt, -⟩ | ⟨-, -, e⟩
  · omega
  · omega
  · omega
  · exact e

theorem parseBits_eq_packet {bytes : List Byte} {retrieved : Chk} {n : Nat}
    (h : parseBits strong start u = .packet bytes retrieved n) :
    1 + codecWidth strong ≤ u.nbits ∧ paddingBits strong u ≤ payloadBitsPadded strong u ∧
      recoveredBytes strong u = bytes ∧ retrievedChecksum strong u = retrieved ∧ start + u.nsym = n := by
  rcases parseBits_cases strong start u with ⟨-, e⟩ | ⟨-, -, e⟩ | ⟨-, -, e⟩ | ⟨hlen, hpad, e⟩ <;>
    rw [e] at h
  · cases h
  · cases h
  · cases h
  · obtain ⟨hbytes, hretrieved, hn⟩ := Parse.packet.inj h
    exact ⟨hlen, hpad, hbytes, hretrieved, hn⟩

/-- R114 in terms of the symbols: only two strong symbols leave no payload bits, and their parity bit is the top bit of
the first. -/
theorem lt_paddingBits_iff_of_tight (h : u.Tight) (hlen : 1 + codecWidth strong ≤ u.nbits) :
    payloadBitsPadded strong u < paddingBits strong u ↔ strong = true ∧ u.nsym = 2 ∧ 0x100 ≤ u.acc >>> 9 := by
  have hbits := h.nbits_eq
  rw [lt_paddingBits_iff]
  cases strong
  · simp only [payloadBitsPadded, codecWidth, Bool.false_eq_true, if_false, false_and, iff_false] at hlen ⊢
    omega
  · simp only [payloadBitsPadded, receivedParity, headerInt, codecWidth, if_true, true_and] at hlen ⊢
    have hsym : u.nbits - (1 + 17) = 0 ↔ u.nsym = 2 := by omega
    rw [hsym]
    refine and_congr_right fun htwo => ?_
    have hacc : u.acc < 2 ^ 18 := by simpa [hbits, htwo] using h.acc_lt
    rw [hbits, htwo, ← Nat.shiftRight_add, Nat.shiftRight_eq_div_pow, Nat.shiftRight_eq_div_pow]
    omega

/-- Settles O47: steps 4 to 9 end in `INVALID_PADDING` when the padding exceeds the payload bits of a whole header. -/
theorem invalidPaddingExactly : Obligations.InvalidPaddingExactly := by
  intro strong start toks
  have htight := unpack_tight toks
  have hbits := htight.nbits_eq
  have hwidth := codecWidth_le strong
  rcases parseBits_cases strong start (unpack toks) with ⟨hnone, e⟩ | ⟨hne, hshort, e⟩ | ⟨hlen, hpad, e⟩ |
    ⟨hlen, hpad, e⟩ <;> rw [e]
  · simp only [Parse.error.injEq, reduceCtorEq, false_and, false_iff]
    omega
  · simp only [Parse.error.injEq, reduceCtorEq, false_and, false_iff]
    omega
  · exact iff_of_true rfl ((lt_paddingBits_iff_of_tight htight hlen).mp hpad)
  · exact iff_of_false (by simp) fun h => absurd ((lt_paddingBits_iff_of_tight htight hlen).mpr h) (Nat.not_lt.mpr hpad)

/-- Settles O50: header, bytes and padding make up the bits, and each field is read at its place. -/
theorem recoveredBytesAreThePayload : Obligations.RecoveredBytesAreThePayload := by
  intro strong start toks bytes retrieved n u C h
  obtain ⟨hlen, hpad, rfl, rfl, -⟩ := parseBits_eq_packet h
  have hbits := recoveredBytes_length hpad
  have hpadded : payloadBitsPadded strong u = u.nbits - 1 - C := (Nat.sub_add_eq ..)
  change 1 + C ≤ u.nbits at hlen
  refine ⟨?_, ?_, ?_⟩
  · omega
  · rw [retrievedChecksum_toNat, headerInt, hpadded, Nat.shiftRight_eq_div_pow]
    rfl
  · rw [intBe_recoveredBytes hpad, Nat.shiftRight_eq_div_pow]

/-! ### What decode does not check -/

/-- Steps 4 to 9 depend on the accumulator through the padding, the checksum and the bytes only. -/
theorem parseBits_congr (hbits : u.nbits = v.nbits) (hsym : u.nsym = v.nsym)
    (hpad : paddingBits strong u = paddingBits strong v)
    (hchk : retrievedChecksum strong u = retrievedChecksum strong v)
    (hbytes : recoveredBytes strong u = recoveredBytes strong v) :
    parseBits strong start u = parseBits strong start v := by
  simp only [parseBits, hbits, hsym, hpad, hchk, hbytes, payloadBitsPadded_congr (strong := strong) hbits]

theorem retrievedChecksum_congr
    (h : headerInt strong u % 2 ^ codecWidth strong = headerInt strong v % 2 ^ codecWidth strong) :
    retrievedChecksum strong u = retrievedChecksum strong v := by
  apply BitVec.eq_of_toNat_eq
  rw [retrievedChecksum_toNat, retrievedChecksum_toNat, h]

/-- R118 (a): the padding bits are not read. -/
theorem parseBits_ignores_padding (hbits : u.nbits = v.nbits) (hsym : u.nsym = v.nsym)
    (hle : paddingBits strong u ≤ payloadBitsPadded strong u)
    (hacc : u.acc >>> paddingBits strong u = v.acc >>> paddingBits strong u) :
    parseBits strong start u = parseBits strong start v := by
  have hpadded := payloadBitsPadded_congr (strong := strong) hbits
  have hheader : headerInt strong u = headerInt strong v := by
    rw [headerInt, headerInt, ← hpadded, ← Nat.add_sub_cancel' hle, Nat.shiftRight_add, Nat.shiftRight_add, hacc]
  have hpad := paddingBits_congr hpadded (by rw [receivedParity, receivedParity, hheader])
  exact parseBits_congr hbits hsym hpad (retrievedChecksum_congr (by rw [hheader]))
    (recoveredBytes_congr hpadded hpad hle (by rw [hacc]))

/-- R118 (b): at a nonzero residue the parity bit, the top bit, is not read. -/
theorem parseBits_ignores_parity (hbits : u.nbits = v.nbits) (hsym : u.nsym = v.nsym)
    (hres : payloadBitsPadded strong u % 8 ≠ 0) (hacc : u.acc % 2 ^ (u.nbits - 1) = v.acc % 2 ^ (u.nbits - 1)) :
    parseBits strong start u = parseBits strong start v := by
  have hpadded := payloadBitsPadded_congr (strong := strong) hbits
  have hpadU := paddingBits_of_residue hres
  have hpad : paddingBits strong u = paddingBits strong v := by
    rw [hpadU, hpadded, paddingBits_of_residue (hpadded ▸ hres)]
  have hread {m k : Nat} (h : m + k ≤ u.nbits - 1) : (u.acc >>> m) % 2 ^ k = (v.acc >>> m) % 2 ^ k := by
    rw [← mod_shiftRight_mod u.acc h, hacc, mod_shiftRight_mod v.acc h]
  have hsum : payloadBitsPadded strong u + codecWidth strong = u.nbits - 1 := by
    simp only [payloadBitsPadded] at hres ⊢
    omega
  have hchk : headerInt strong u % 2 ^ codecWidth strong = headerInt strong v % 2 ^ codecWidth strong := by
    rw [headerInt, headerInt, ← hpadded]
    exact hread hsum.le
  exact parseBits_congr hbits hsym hpad (retrievedChecksum_congr hchk)
    (recoveredBytes_congr hpadded hpad (by omega) (hread (by omega)))

/-! ### Steps 1 to 3 -/

section steps

variable {lcfg : Word32} {toks : List Token}

/-- An empty input (R107). -/
theorem parseTokens_nil (lcfg : Word32) :
    parseTokens lcfg [] = if !pfx lcfg && emptyOk lcfg then .emptyShortcut else .error .emptyString false := rfl

theorem parseTokens_of_bad_prefix {t : Token} (hp : pfx lcfg = true) (ht : t.sent = false) (rest : List Token) :
    parseTokens lcfg (t :: rest) = .error .invalidPrefix false := by
  simp [parseTokens, parsePacket, hp, ht]

/-- What is left of a nonempty input that starts as `PFX` asks: the capacity check, then steps 4 to 9 (R109, R110). -/
theorem parseTokens_of_prefix {t : Token} (ht : pfx lcfg = true → t.sent = true) (rest : List Token) :
    parseTokens lcfg (t :: rest) =
      if Config.maxSymbols < (validPrefix (afterPrefix lcfg (t :: rest))).length then .error .capacity false
      else parseBits (csel lcfg) (if pfx lcfg then 1 else 0) (unpack (afterPrefix lcfg (t :: rest))) := by
  have hprefix : (pfx lcfg && !t.sent) = false := by
    rcases hp : pfx lcfg with _ | _
    · rfl
    · simp [ht hp]
  simp [parseTokens, parsePacket, hprefix, firstAllValid_succ_eq]

theorem parseTokens_of_many {t : Token} (ht : pfx lcfg = true → t.sent = true) {rest : List Token}
    (hn : Config.maxSymbols < (validPrefix (afterPrefix lcfg (t :: rest))).length) :
    parseTokens lcfg (t :: rest) = .error .capacity false := by
  rw [parseTokens_of_prefix ht, if_pos hn]

theorem parseTokens_of_few {t : Token} (ht : pfx lcfg = true → t.sent = true) {rest : List Token}
    (hn : (validPrefix (afterPrefix lcfg (t :: rest))).length ≤ Config.maxSymbols) :
    parseTokens lcfg (t :: rest) =
      parseBits (csel lcfg) (if pfx lcfg then 1 else 0) (unpack (afterPrefix lcfg (t :: rest))) := by
  rw [parseTokens_of_prefix ht, if_neg (Nat.not_lt.mpr hn)]

/-- Where steps 1 to 9 of R106 end: at one of the first three checks, or with what steps 4 to 9 give. -/
theorem parseTokens_cases (lcfg : Word32) (toks : List Token) :
    parseTokens lcfg toks = .emptyShortcut ∨ parseTokens lcfg toks = .error .emptyString false ∨
    parseTokens lcfg toks = .error .invalidPrefix false ∨ parseTokens lcfg toks = .error .capacity false ∨
    ((validPrefix (afterPrefix lcfg toks)).length ≤ Config.maxSymbols ∧
      parseTokens lcfg toks =
        parseBits (csel lcfg) (if pfx lcfg then 1 else 0) (unpack (afterPrefix lcfg toks))) := by
  cases toks with
  | nil =>
    rw [parseTokens_nil]
    cases !pfx lcfg && emptyOk lcfg
    · exact .inr (.inl rfl)
    · exact .inl rfl
  | cons t rest =>
    by_cases ht : pfx lcfg = true → t.sent = true
    · rcases Nat.lt_or_ge Config.maxSymbols (validPrefix (afterPrefix lcfg (t :: rest))).length with hgt | hle
      · exact .inr (.inr (.inr (.inl (parseTokens_of_many ht hgt))))
      · exact .inr (.inr (.inr (.inr ⟨hle, parseTokens_of_few ht hle⟩)))
    · simp only [Classical.not_imp, Bool.not_eq_true] at ht
      exact .inr (.inr (.inl (parseTokens_of_bad_prefix ht.1 ht.2 rest)))

/-- A packet that reaches step 10 fits the hardware, and its count is the sentinel and the valid tokens after it
(R117). -/
theorem parseTokens_eq_packet {bytes : List Byte} {retrieved : Chk} {consumed : Nat}
    (h : parseTokens lcfg toks = .packet bytes retrieved consumed) :
    (validPrefix (afterPrefix lcfg toks)).length ≤ Config.maxSymbols ∧
      consumed = (if pfx lcfg then 1 else 0) + (validPrefix (afterPrefix lcfg toks)).length := by
  rcases parseTokens_cases lcfg toks with e | e | e | e | ⟨hle, e⟩ <;> rw [e] at h
  · cases h
  · cases h
  · cases h
  · cases h
  · obtain ⟨-, -, -, -, hn⟩ := parseBits_eq_packet h
    exact ⟨hle, by rw [← hn, unpack_nsym]⟩

theorem parseTokens_fits (lcfg : Word32) (toks : List Token) : (parseTokens lcfg toks).Fits := by
  rcases parseTokens_cases lcfg toks with e | e | e | e | ⟨hle, e⟩ <;> rw [e]
  · trivial
  · exact nofun
  · exact nofun
  · exact nofun
  · exact parseBits_fits _ _ (by rw [unpack_nbits]; omega)

/-! ### Steps 10 and 11 -/

/-- Decode verifies what steps 1 to 9 give, against some checksum (R116). -/
theorem packetDecode_eq_verify (lcfg : Word32) (toks : List Token) :
    ∃ chk, packetDecode lcfg toks = (parseTokens lcfg toks).verify chk := by
  unfold packetDecode
  dsimp only
  split
  · exact ⟨_, rfl⟩
  · exact ⟨_, rfl⟩

theorem packetDecode_of_emptyShortcut (h : parseTokens lcfg toks = .emptyShortcut) :
    packetDecode lcfg toks = .ok [] 0 0 := by
  simp only [packetDecode, h, Parse.toVerify, Parse.verify]

theorem packetDecode_of_error {kind : ErrKind} {sub : Bool} (h : parseTokens lcfg toks = .error kind sub) :
    packetDecode lcfg toks = .err kind sub := by
  simp only [packetDecode, h, Parse.toVerify, Parse.verify]

theorem packetDecode_of_packet {bytes : List Byte} {retrieved : Chk} {consumed : Nat}
    (h : parseTokens lcfg toks = .packet bytes retrieved consumed) :
    packetDecode lcfg toks =
      if checksum (csel lcfg) bytes = retrieved then .ok bytes consumed retrieved else .err .checksumMismatch false := by
  simp only [packetDecode, h, Parse.toVerify, Parse.verify]

/-- What decode returns, by where steps 1 to 9 end. -/
theorem packetDecode_cases (lcfg : Word32) (toks : List Token) :
    (parseTokens lcfg toks = .emptyShortcut ∧ packetDecode lcfg toks = .ok [] 0 0) ∨
    (∃ kind sub, parseTokens lcfg toks = .error kind sub ∧ packetDecode lcfg toks = .err kind sub) ∨
    (∃ bytes retrieved consumed, parseTokens lcfg toks = .packet bytes retrieved consumed ∧
      (packetDecode lcfg toks = .ok bytes consumed retrieved ∨
        packetDecode lcfg toks = .err .checksumMismatch false)) := by
  cases h : parseTokens lcfg toks with
  | emptyShortcut => exact .inl ⟨rfl, packetDecode_of_emptyShortcut h⟩
  | error kind sub => exact .inr (.inl ⟨kind, sub, rfl, packetDecode_of_error h⟩)
  | packet bytes retrieved consumed =>
    refine .inr (.inr ⟨bytes, retrieved, consumed, rfl, ?_⟩)
    rw [packetDecode_of_packet h]
    split_ifs
    · exact .inl rfl
    · exact .inr rfl

/-- Settles O45: an input is empty, lacks its sentinel, or goes on to the capacity check. -/
theorem decodeFirstChecks : Obligations.DecodeFirstChecks := by
  intro lcfg
  refine ⟨fun (hp : pfx lcfg = false) (he : emptyOk lcfg = true) => ?_,
    fun (h : pfx lcfg = true ∨ emptyOk lcfg = false) => ?_, fun t rest hp ht => ?_, fun t rest hp ht hn => ?_,
    fun toks hp hn => ?_⟩
  · exact packetDecode_of_emptyShortcut (by simp [parseTokens_nil, hp, he])
  · exact packetDecode_of_error (by rcases h with h | h <;> simp [parseTokens_nil, h])
  · exact packetDecode_of_error (parseTokens_of_bad_prefix hp ht rest)
  · have hbody : afterPrefix lcfg (t :: rest) = rest := if_pos hp
    exact packetDecode_of_error (parseTokens_of_many (fun _ => ht) (by rw [hbody]; exact hn))
  · have hbody : afterPrefix lcfg toks = toks := if_neg (ne_true_of_eq_false hp)
    cases toks with
    | nil => exact absurd hn (Nat.not_lt_zero _)
    | cons t rest =>
      exact packetDecode_of_error
        (parseTokens_of_many (fun hp' => absurd hp' (ne_true_of_eq_false hp)) (by rw [hbody]; exact hn))

/-- Two symbols hold a header: what follows is no `SHORT_PACKET` (R111). -/
theorem parseBits_ne_shortPacket (h : 1 + codecWidth strong ≤ u.nbits) (sub : Bool) :
    parseBits strong start u ≠ .error .shortPacket sub := by
  rcases parseBits_cases strong start u with ⟨hnone, -⟩ | ⟨-, hshort, -⟩ | ⟨-, -, e⟩ | ⟨-, -, e⟩
  · omega
  · omega
  · rw [e]
    nofun
  · rw [e]
    nofun

theorem packetDecode_ne_shortPacket {sub : Bool} (h : parseTokens lcfg toks ≠ .error .shortPacket sub) :
    packetDecode lcfg toks ≠ .err .shortPacket sub := by
  rcases packetDecode_cases lcfg toks with ⟨-, e⟩ | ⟨kind, sub', hparse, e⟩ | ⟨_, _, _, -, e | e⟩ <;> rw [e]
  · nofun
  · rintro ⟨⟩
    exact h hparse
  · nofun
  · nofun

/-- Settles O46: a header takes 17 or 18 bits, and the bits come in nines. -/
theorem decodeShortPacket : Obligations.DecodeShortPacket := by
  intro lcfg t rest ht n
  have hS := Config.maxSymbols_ge
  have hge := codecWidth_ge (csel lcfg)
  have hle := codecWidth_le (csel lcfg)
  have hbody : (validPrefix (afterPrefix lcfg (t :: rest))).length = n := rfl
  have hbits := unpack_nbits (afterPrefix lcfg (t :: rest))
  rw [hbody] at hbits
  have hfew (hn : n ≤ Config.maxSymbols) := parseTokens_of_few (lcfg := lcfg) ht (hbody.trans_le hn)
  refine ⟨fun hn => ?_, fun hn => ?_, fun hn sub => packetDecode_ne_shortPacket ?_⟩
  · exact packetDecode_of_error ((hfew (by omega)).trans (parseBits_of_none _ _ (by omega)))
  · exact packetDecode_of_error ((hfew (by omega)).trans (parseBits_of_short _ (by omega) (by omega)))
  · rcases Nat.lt_or_ge Config.maxSymbols n with hgt | hle
    · rw [parseTokens_of_many ht (hgt.trans_eq hbody.symm)]
      nofun
    · rw [hfew hle]
      exact parseBits_ne_shortPacket (by omega) sub

/-- Settles O48: by what step 10 makes of a packet. -/
theorem decodeVerifiesTheChecksum : Obligations.DecodeVerifiesTheChecksum := by
  intro lcfg toks bytes retrieved consumed h
  obtain ⟨-, hconsumed⟩ := parseTokens_eq_packet h
  rw [packetDecode_of_packet h]
  exact ⟨fun heq => if_pos heq, fun hne => if_neg hne, hconsumed⟩

/-- Settles O49: the padding and, at a nonzero residue, the parity bit are not read; the example is evaluated. -/
theorem decodeDoesNotCheck : Obligations.DecodeDoesNotCheck :=
  ⟨fun _ _ _ _ hbits hsym hle hacc => parseBits_ignores_padding hbits hsym hle hacc,
    fun _ _ _ _ hbits hsym hres hacc _ _ => parseBits_ignores_parity hbits hsym hres hacc,
    by decide +kernel, by decide +kernel⟩

/-! ### The `DECODE` command -/

/-- A successful decode counts no more than the sentinel and `S` symbols (R117). -/
theorem consumed_le_of_packetDecode {bytes : List Byte} {consumed : Nat} {retrieved : Chk}
    (h : packetDecode lcfg toks = .ok bytes consumed retrieved) : consumed ≤ Config.maxSymbols + 1 := by
  rcases packetDecode_cases lcfg toks with ⟨-, e⟩ | ⟨_, _, -, e⟩ | ⟨_, _, _, hparse, e | e⟩ <;>
    rw [e] at h <;> cases h
  · exact Nat.zero_le _
  · obtain ⟨hle, rfl⟩ := parseTokens_eq_packet hparse
    split_ifs <;> omega

theorem decodeCmd_sound (lcfg : Word32) (toks : List Token) : (decodeCmd lcfg toks).Sound := by
  obtain ⟨chk, h⟩ := packetDecode_eq_verify lcfg toks
  rw [decodeCmd, h]
  exact (parseTokens_fits lcfg toks).verify_sound chk

theorem decodeCmd_of_ok {bytes : List Byte} {consumed : Nat} {retrieved : Chk}
    (h : packetDecode lcfg toks = .ok bytes consumed retrieved) :
    decodeCmd lcfg toks = OutV.success retrieved.toNat consumed bytes.length (.bytes bytes) := by
  rw [decodeCmd, h, DecodeResult.toOutV]

theorem decodeCmd_of_err {kind : ErrKind} {sub : Bool} (h : packetDecode lcfg toks = .err kind sub) :
    decodeCmd lcfg toks = OutV.fail kind sub := by
  rw [decodeCmd, h, DecodeResult.toOutV]

/-- Settles O51: success and failure are R120's tuples by definition; that the output is sound gives the byte count and
whose `SHORTSUB` is, and `S < 2^28` keeps the other two values from wrapping. -/
theorem decodeCommandResult : Obligations.DecodeCommandResult := by
  intro lcfg toks
  have hsound := decodeCmd_sound lcfg toks
  refine ⟨fun bytes consumed retrieved h => ?_, fun kind sub h => ?_⟩
  · have hS := Config.maxSymbols_lt
    have hconsumed := consumed_le_of_packetDecode h
    have hretrieved : retrieved.toNat < 2 ^ 17 := retrieved.isLt
    have houtlen := hsound.outlen_counts
    rw [decodeCmd_of_ok h] at houtlen ⊢
    have hcount {x : Nat} (hx : x < 2 ^ 32) : (BitVec.ofNat 32 x).toNat = x := by
      rw [BitVec.toNat_ofNat, Nat.mod_eq_of_lt hx]
    exact ⟨rfl, rfl, hcount (by omega), hcount (by omega), houtlen.trans (Nat.zero_add _), rfl⟩
  · have hshort := hsound.shortsub_short
    rw [decodeCmd_of_err h] at hshort ⊢
    exact ⟨rfl, hshort⟩

end steps

end Sys2Proof.Machine
end

section
/-! Proofs of the statements from 44_codec_decode.md: decode inverts encode. -/

namespace Sys2Proof.Machine

/-! ### The packet's fields, received -/

/-- What the unpacker gives for the symbols of a packet (R98). -/
def receivedPacket (strong : Bool) (chk : Chk) (p : List Byte) : Unpacked :=
  { acc := packetBits strong chk p, nbits := totalBits strong p + padding strong p
    nsym := (totalBits strong p + padding strong p) / 9 }

section received

variable (strong : Bool) {chk : Chk} (hchk : chk.toNat < 2 ^ codecWidth strong) (p : List Byte)

theorem receivedPacket_payloadBitsPadded (chk : Chk) :
    payloadBitsPadded strong (receivedPacket strong chk p) = padding strong p + 8 * p.length := by
  simp only [payloadBitsPadded, receivedPacket, totalBits]
  omega

theorem receivedPacket_holds_header (chk : Chk) :
    1 + codecWidth strong ≤ (receivedPacket strong chk p).nbits := by
  simp only [receivedPacket, totalBits]
  omega

include hchk

theorem receivedPacket_headerInt :
    headerInt strong (receivedPacket strong chk p) = parityBit strong p * 2 ^ codecWidth strong + chk.toNat := by
  rw [headerInt, receivedPacket_payloadBitsPadded, receivedPacket, packetBits_past_payload strong hchk]

theorem receivedPacket_parity : receivedParity strong (receivedPacket strong chk p) = parityBit strong p := by
  rw [receivedParity, receivedPacket_headerInt strong hchk, shiftRight_lowerPart _ hchk]

theorem receivedPacket_checksum : retrievedChecksum strong (receivedPacket strong chk p) = chk := by
  apply BitVec.eq_of_toNat_eq
  rw [retrievedChecksum_toNat, receivedPacket_headerInt strong hchk, Nat.mul_add_mod_of_lt hchk]

/-- The parity bit tells padding 8 from padding 0, which leave the same residue (R62, R113). -/
theorem receivedPacket_paddingBits : paddingBits strong (receivedPacket strong chk p) = padding strong p := by
  have hlt := padding_lt strong p
  have height := parityBit_eq_one_iff strong p
  have hbits := receivedPacket_payloadBitsPadded strong p chk
  have hparity := receivedPacket_parity strong hchk p
  rcases paddingBits_cases strong (receivedPacket strong chk p) with ⟨-, hone, e⟩ | ⟨hnot, e⟩ <;> omega

theorem receivedPacket_bytes : recoveredBytes strong (receivedPacket strong chk p) = p := by
  have hbits := receivedPacket_payloadBitsPadded strong p chk
  have hpad := receivedPacket_paddingBits strong hchk p
  have hle : paddingBits strong (receivedPacket strong chk p) ≤
      payloadBitsPadded strong (receivedPacket strong chk p) := by
    omega
  have hlen : (recoveredBytes strong (receivedPacket strong chk p)).length = p.length := by
    have h := recoveredBytes_length hle
    omega
  apply eq_of_intBe_eq hlen
  rw [intBe_recoveredBytes hle, hlen, hpad]
  exact packetBits_payload strong hchk p

/-- Steps 4 to 9 of R106 give back the payload and the checksum of a packet. -/
theorem parseBits_receivedPacket (start : Nat) :
    parseBits strong start (receivedPacket strong chk p) =
      .packet p chk (start + (totalBits strong p + padding strong p) / 9) := by
  rw [parseBits_of_packet start (receivedPacket_holds_header strong p chk), receivedPacket_bytes strong hchk,
    receivedPacket_checksum strong hchk]
  · rfl
  · rw [receivedPacket_paddingBits strong hchk, receivedPacket_payloadBitsPadded]
    exact Nat.le_add_right _ _

end received

/-! ### Faithful readings -/

variable {lcfg : Word32} {p : List Byte} {toks rest : List Token}

/-- The tokens of symbol items are valid and carry their values (R119). -/
theorem faithful_symItems {values : List SymVal} (h : List.Forall₂ Faithful (values.map symItem) toks) :
    List.Forall₂ (fun x t => t.valid = true ∧ t.value = x) values toks := by
  rw [List.forall₂_map_left_iff] at h
  exact h.imp fun _ _ hx => hx.1 rfl

/-- The unpacker reads the symbols of a packet back, whatever follows the token that stops it (R98, R119). -/
theorem unpack_packet (strong : Bool) {chk : Chk} (hchk : chk.toNat < 2 ^ codecWidth strong)
    (htoks : List.Forall₂ Faithful
      ((pack (packetBits strong chk p) (totalBits strong p + padding strong p)).map symItem) toks)
    (hrest : StopsUnpacker rest) : unpack (toks ++ rest) = receivedPacket strong chk p := by
  obtain ⟨k, hk⟩ : 9 ∣ totalBits strong p + padding strong p := Nat.dvd_of_mod_eq_zero (packet_aligned strong p)
  have hlt := packetBits_lt strong hchk p
  have hvalues := faithful_symItems htoks
  rw [hk] at hlt hvalues
  rw [unpack, unpackFrom_pack _ k hvalues hrest, Nat.mod_eq_of_lt hlt, receivedPacket, hk,
    Nat.mul_div_cancel_left k (by decide)]
  simp

/-- A faithful reading of an encoding starts with the sentinel if `PFX` is on; the packet's symbols follow
(R100, R119). -/
theorem faithful_packetEncode
    (h : List.Forall₂ Faithful (packetEncode (csel lcfg) (pfx lcfg) p) toks) (rest : List Token) :
    ∃ t more body, toks ++ rest = t :: more ∧ (pfx lcfg = true → t.sent = true) ∧
      afterPrefix lcfg (toks ++ rest) = body ++ rest ∧
      List.Forall₂ Faithful ((pack (packetBits (csel lcfg) (checksum (csel lcfg) p) p)
        (totalBits (csel lcfg) p + padding (csel lcfg) p)).map symItem) body := by
  rcases hp : pfx lcfg with _ | _
  · have hlen : 0 < toks.length := by
      rw [← h.length_eq, packetEncode_length]
      unfold totalBits
      omega
    obtain ⟨t, more, rfl⟩ := List.exists_cons_of_length_pos hlen
    rw [hp] at h
    exact ⟨t, more ++ rest, t :: more, rfl, nofun, if_neg (ne_true_of_eq_false hp), h⟩
  · rw [hp] at h
    obtain ⟨t, body, hsentinel, hbody, rfl⟩ := List.forall₂_cons_left_iff.mp h
    exact ⟨t, body ++ rest, body, rfl, fun _ => hsentinel.2 rfl, if_pos hp, hbody⟩

/-- A payload within `P` makes a packet within `S` symbols (R6). -/
theorem receivedPacket_nsym_le (strong : Bool) (chk : Chk) (h : p.length ≤ Config.maxPayload) :
    (receivedPacket strong chk p).nsym ≤ Config.maxSymbols := by
  have hS := Config.maxPayload_symbols
  have hwidth := codecWidth_le strong
  calc (receivedPacket strong chk p).nsym
    _ = (totalBits strong p + 8) / 9 := packet_symbols strong p
    _ ≤ Config.maxSymbols := by
      unfold totalBits
      omega

/-- Settles O44: past the sentinel the unpacker gives the packet's bits, of which steps 4 to 9 make the payload and its
checksum. -/
theorem decodeInvertsEncode : Obligations.DecodeInvertsEncode := by
  intro lcfg p toks rest hp htoks hrest
  have hchk := checksum_lt (csel lcfg) p
  obtain ⟨t, more, body, hcons, hsent, hafter, hbody⟩ := faithful_packetEncode htoks rest
  have hunpack := unpack_packet (csel lcfg) hchk hbody hrest
  have hfew : (validPrefix (afterPrefix lcfg (t :: more))).length ≤ Config.maxSymbols := by
    rw [← hcons, hafter, ← unpack_nsym, hunpack]
    exact receivedPacket_nsym_le _ _ hp
  have hparse := parseTokens_of_few hsent hfew
  rw [← hcons, hafter, hunpack, parseBits_receivedPacket _ hchk] at hparse
  rw [packetDecode_of_packet hparse, if_pos rfl, packetEncode_length, packet_symbols, Nat.add_comm]

end Sys2Proof.Machine
end

section
/-! Proofs of the statements from 44_codec_decode.md: the commands that read `TIN` from their start to their commit. -/

namespace Sys2Proof.Machine

variable {s : State} {more : List Turn}

/-! ### From the start to `COMPUTE` -/

theorem Work.Collecting.collectTokens {w : Work} (h : w.Collecting) (c : Cmd) (lcfg : Word32) (toks : List Token) :
    (w.collectTokens c lcfg toks).Collecting := by
  induction toks generalizing w with
  | nil => exact h
  | cons t rest ih =>
    rw [Work.collectTokens_cons]
    exact ih (h.takeToken c lcfg t)

/-- A `TIN` command's state while it reads its input: what `COLLECT` changes of `s`, and the clock. -/
def State.readingTin (s : State) (tin : List Token) (fsm : Fsm) (w : Work) (sched : List Turn) (tick : Nat) : State :=
  { s with tin := tin, fsm := fsm, work := w, sched := sched, tick := tick }

section reading

variable {rest : List Token} (hport : s.lop.inPort = .tin) (w : Work) (tick : Nat)
include hport

/-- The core's turn in `COLLECT` pops a token (R128). -/
theorem step_collects_token {t : Token} (ht : t.isEnd = false) :
    step (s.readingTin (t :: rest) .collect w (.core :: more) tick) =
      .next (s.readingTin rest .collect (w.takeToken s.lop s.lcfg t) more (tick + 1)) := by
  rw [step_of_sched_core rfl]
  exact congrArg Host.Outcome.next (State.coreStep_of_token
    (s := (s.readingTin (t :: rest) .collect w (.core :: more) tick).inTurn more) rfl hport rfl ht)

/-- The core's turn in `COLLECT` pops the `END` (R128). -/
theorem step_collects_endToken {e : Token} (he : e.isEnd = true) :
    step (s.readingTin (e :: rest) .collect w (.core :: more) tick) =
      .next (s.readingTin rest .compute w more (tick + 1)) := by
  rw [step_of_sched_core rfl]
  exact congrArg Host.Outcome.next (State.coreStep_of_endToken
    (s := (s.readingTin (e :: rest) .collect w (.core :: more) tick).inTurn more) rfl hport rfl he)

/-- The core's turns take the tokens one by one, whether valid or not, and then the `END` (R128). -/
theorem runs_collect_tokens {toks : List Token} (htoks : ∀ t ∈ toks, t.isEnd = false) {e : Token}
    (he : e.isEnd = true) :
    ∃ tick', Runs (toks.length + 1)
      (s.readingTin (toks ++ e :: rest) .collect w (List.replicate (toks.length + 1) .core ++ more) tick)
      (s.readingTin rest .compute (w.collectTokens s.lop s.lcfg toks) more tick') := by
  induction toks generalizing w tick with
  | nil => exact ⟨_, .head (step_collects_endToken hport w tick he) (.refl _)⟩
  | cons t toks ih =>
    obtain ⟨ht, hmore⟩ := List.forall_mem_cons.mp htoks
    obtain ⟨tick', hruns⟩ := ih (w.takeToken s.lop s.lcfg t) (tick + 1) hmore
    exact ⟨tick', .head (step_collects_token hport w tick ht) hruns⟩

end reading

/-! ### The commands that read `TIN` -/

/-- The two commands that read `TIN`: their words are well formed and their operations write `CMD` (R74, R76). -/
theorem tinInstr_writes {i : Instr} {c : Cmd} (h : i = .decode ∧ c = .decode ∨ i = .unpack ∧ c = .unpack) :
    i.wellFormed = true ∧ c.inPort = .tin ∧ ∀ u, exec i u = .next (u.cmdWrite c).retire := by
  rcases h with ⟨rfl, rfl⟩ | ⟨rfl, rfl⟩ <;> exact ⟨rfl, rfl, fun _ => rfl⟩

/-- A `TIN` command that has just started, with its input and the `END` in `TIN`, runs to the commit of its pure
function: that is what the collected registers give (R128 to R131). -/
theorem runs_tin_command {toks : List Token} {e : Token} {rest : List Token} (hfsm : s.fsm = .collect)
    (hport : s.lop.inPort = .tin) (hw : s.work = Work.cleared) (hd : s.dpend = false)
    (htin : s.tin = toks ++ e :: rest) (htoks : ∀ t ∈ toks, t.isEnd = false) (he : e.isEnd = true)
    (hsched : s.sched = commandTurns toks.length ++ more)
    (hroom : s.hasRoom (tinCommand s.lop s.lcfg toks).items = true) :
    ∃ dreq w tick, Runs (toks.length + 5) s
      ({ s with tin := rest }.doneWith (tinCommand s.lop s.lcfg toks) dreq w more tick) := by
  have hturns : s.sched = List.replicate (toks.length + 1) .core ++ .core :: .digest :: .core :: .core :: more := by
    rw [hsched, commandTurns, List.append_assoc]
    rfl
  have hstart : s.readingTin (toks ++ e :: rest) .collect Work.cleared
      (List.replicate (toks.length + 1) .core ++ .core :: .digest :: .core :: .core :: more) s.tick = s := by
    rw [State.readingTin, ← htin, ← hfsm, ← hw, ← hturns]
  obtain ⟨tick₁, hcollect⟩ := runs_collect_tokens (rest := rest) (more := .core :: .digest :: .core :: .core :: more)
    hport Work.cleared s.tick htoks he
  rw [hstart] at hcollect
  have ho := collectedRegistersGiveThePureFunction.2 s.lop s.lcfg s.larg toks hport
  have hk := (Work.cleared_collecting.collectTokens s.lop s.lcfg toks).chkDone
  obtain ⟨dreq, w, tick, hcompute⟩ :=
    runs_compute (more := more) (s := s.readingTin rest .compute (Work.cleared.collectTokens s.lop s.lcfg toks)
      (.core :: .digest :: .core :: .core :: more) tick₁) rfl hd hk ho hroom rfl
  have hruns := hcollect.trans hcompute
  exact ⟨dreq, w, tick, hruns⟩

/-- Settles O54: the host's turn starts the command, and the turns after it lead to its commit. -/
theorem tinCommandsCommitTheirPureFunction : Obligations.TinCommandsCommitTheirPureFunction := by
  intro s i c toks e rest ops more hi hidle hd hq htin htoks he hsched hroom
  obtain ⟨hwf, hport, hexec⟩ := tinInstr_writes hi
  have hlegal : c ≠ .illegal := by rintro rfl; cases hport
  have hstart := step_starts_command hwf hexec hlegal hidle hq hsched
  obtain ⟨dreq, w, tick, hcommand⟩ :=
    runs_tin_command (s := s.started c ops (commandTurns toks.length ++ more)) rfl hport rfl hd htin htoks he rfl hroom
  have hruns : Runs (toks.length + 6) s _ := .head hstart hcommand
  exact ⟨_, hruns, ⟨rfl, rfl, rfl, rfl, rfl, rfl, rfl⟩, rfl, rfl, rfl, rfl, hd, rfl, rfl, rfl⟩

end Sys2Proof.Machine
end

section
/-! Proofs of the statements from 45_host_interface.md: the host's register and FIFO operations. -/

namespace Sys2Proof.Machine

variable {s : State}

/-! ### Register operations -/

/-- `RD` puts the slot's register in the reply and goes on to the host's next word (R121). -/
theorem exec_rd (slot : Slot) (s : State) :
    exec (.rd slot) s = .next { s with reply := .reg (s.readReg slot), hostq := s.hostq.tail } := rfl

theorem exec_wr (slot : Slot) (v : Word32) (s : State) : exec (.wr slot v) s = .next (s.writeReg slot v).retire := rfl

/-- A `CFG` write stores bits 2:0 of the value and zeros above them (R28). -/
theorem cfgStored_getLsbD (v : Word32) (i : Nat) : (cfgStored v).getLsbD i = (decide (i < 3) && v.getLsbD i) := by
  simp only [cfgStored, BitVec.getLsbD_setWidth, BitVec.getLsbD_extractLsb', Nat.zero_add]
  by_cases hi : i < 3
  · simp [hi, show i < 32 by omega]
  · simp [hi]

theorem State.writeReg_of_readOnly {slot : Slot} (h : 3 ≤ slot.toNat) (s : State) (v : Word32) :
    s.writeReg slot v = s := by
  rcases s.writeReg_cases slot v with ⟨rfl, -⟩ | ⟨rfl, -⟩ | ⟨rfl, -⟩ | ⟨-, e⟩
  · exact absurd h (by decide)
  · exact absurd h (by decide)
  · exact absurd h (by decide)
  · exact e

/-- Settles O9: slot by slot, the reply is what R52's table names. -/
theorem rdReturnsTheSlotsRegister : Obligations.RdReturnsTheSlotsRegister := fun s =>
  ⟨exec_rd 0 s, exec_rd 1 s, exec_rd 2 s, exec_rd 3 s, exec_rd 4 s, exec_rd 5 s, exec_rd 6 s, exec_rd 7 s⟩

/-- Settles O11: `CFG` keeps three bits, `ARG` all, and from slot 3 on a write stores nothing. -/
theorem wrStoresTheSlotsRegister : Obligations.WrStoresTheSlotsRegister := by
  refine ⟨fun s v => ⟨⟨cfgStored v, exec_wr 0 v s, cfgStored_getLsbD v⟩, exec_wr 2 v s⟩, fun s slot v hslot => ?_⟩
  rw [exec_wr, State.writeReg_of_readOnly hslot]
  rfl

/-! ### Starting a command -/

/-- In `IDLE` the write of a legal command latches the context, clears the working registers and collects (R127). -/
theorem State.cmdWrite_of_legal (hidle : s.fsm = .idle) {c : Cmd} (hc : c ≠ .illegal) :
    s.cmdWrite c =
      { s with
        lop := c, lcfg := s.cfg, larg := s.arg, status := s.status.accepted, fsm := .collect
        work := Work.cleared } := by
  rw [State.cmdWrite_of_idle hidle]
  rcases s.start_cases c with ⟨h, -⟩ | ⟨-, e⟩
  · exact absurd h hc
  · exact e

/-- In `IDLE` an illegal command word latches the context and leaves error 6 to be committed (R127). -/
theorem State.cmdWrite_of_illegal (hidle : s.fsm = .idle) :
    s.cmdWrite .illegal =
      { s with
        lop := .illegal, lcfg := s.cfg, larg := s.arg, status := s.status.accepted, fsm := .commit
        work := { s.work with outv := OutV.fail .illegalCommand false } } := by
  rw [State.cmdWrite_of_idle hidle]
  rcases s.start_cases .illegal with ⟨-, e⟩ | ⟨h, -⟩
  · exact e
  · exact absurd rfl h

/-- An illegal command word writes the illegal command (R74). -/
theorem exec_cmdIllegal {data : Word32} (h : 5 ≤ data.toNat) (s : State) :
    exec (.cmdIllegal data) s = .next (s.cmdWrite .illegal).retire := by
  rw [← Cmd.ofWord_of_illegal ((illegalCommandWord_iff data).mpr h)]
  rfl

/-- Settles O12: each of the six operations is a `CMD` write, which in `IDLE` starts its command. -/
theorem commandWriteIsAcceptedInIdle : Obligations.CommandWriteIsAcceptedInIdle := by
  intro s hidle
  have hlegal {i : Instr} {c : Cmd} (hi : exec i s = .next (s.cmdWrite c).retire) (hc : c ≠ .illegal) :=
    hi.trans (congrArg (fun t : State => Host.Outcome.next t.retire) (State.cmdWrite_of_legal hidle hc))
  refine ⟨hlegal rfl nofun, hlegal rfl nofun, hlegal rfl nofun, hlegal rfl nofun, hlegal rfl nofun,
    fun data hdata => ?_⟩
  rw [exec_cmdIllegal hdata, State.cmdWrite_of_illegal hidle]
  rfl

/-! ### FIFO operations -/

/-- Settles O14: below the capacity the push's waiting case is excluded. -/
theorem pushAppendsItsItem : Obligations.PushAppendsItsItem := by
  refine ⟨fun s x hroom => ?_, fun s x hroom => ?_⟩
  · rcases s.pushBin_cases x with ⟨-, e⟩ | ⟨hfull, -⟩
    · exact congrArg Host.Outcome.next e
    · exact absurd hroom (Nat.not_lt_of_le hfull)
  · rcases s.pushTin_cases x with ⟨-, e⟩ | ⟨hfull, -⟩
    · exact congrArg Host.Outcome.next e
    · exact absurd hroom (Nat.not_lt_of_le hfull)

/-- Settles O15: a FIFO that is not empty has one head and one rest, and the pop takes them apart. -/
theorem popReturnsTheHeadItem : Obligations.PopReturnsTheHeadItem := by
  refine ⟨fun s x rest hsout => ?_, fun s x rest hbout => ?_⟩
  · rcases execPops_cases s with ⟨_, _, h, e⟩ | ⟨h, -⟩ <;> cases hsout.symm.trans h
    exact e
  · rcases execPopb_cases s with ⟨_, _, h, e⟩ | ⟨h, -⟩ <;> cases hbout.symm.trans h
    exact e

end Sys2Proof.Machine
end

section
/-! Proofs of the statements from 45_host_interface.md: the core's steps in `COLLECT`, `COMPUTE` and `COMMIT`. -/

namespace Sys2Proof.Machine

variable {s t : State}

/-! ### `COLLECT` -/

theorem State.coreStep_of_collect (h : s.fsm = .collect) : s.coreStep = s.collect := by
  simp [State.coreStep, h]

theorem inPort_of_bytes {c : Cmd} (h : c = .encode ∨ c = .checksum ∨ c = .pack) : c.inPort = .bin := by
  rcases h with rfl | rfl | rfl <;> rfl

/-- `COLLECT` waits at an empty `BIN` (R37, R128). -/
theorem State.collect_of_no_byte (hport : s.lop.inPort = .bin) (hbin : s.bin = []) : s.collect = s := by
  simp [State.collect, hport, hbin]

/-- `COLLECT` waits at an empty `TIN` (R37, R128). -/
theorem State.collect_of_no_token (hport : s.lop.inPort = .tin) (htin : s.tin = []) : s.collect = s := by
  simp [State.collect, hport, htin]

theorem State.collect_of_endByte (hport : s.lop.inPort = .bin) {x : BinItem} {rest : List BinItem}
    (hbin : s.bin = x :: rest) (hend : x.isEnd = true) :
    s.collect = { s with bin := rest, fsm := .compute } := by
  simp [State.collect, hport, hbin, hend]

theorem State.collect_of_byte (hport : s.lop.inPort = .bin) {x : BinItem} {rest : List BinItem}
    (hbin : s.bin = x :: rest) (hend : x.isEnd = false) :
    s.collect = { s with bin := rest, work := s.work.keepByte x.byte } := by
  simp [State.collect, hport, hbin, hend]

theorem Work.keepByte_of_room {w : Work} (h : w.inb.length < Config.maxPayload) (b : Byte) :
    w.keepByte b = { w with inb := w.inb ++ [b] } := by
  simp [Work.keepByte, h]

theorem Work.keepByte_of_full {w : Work} (h : Config.maxPayload ≤ w.inb.length) (b : Byte) :
    w.keepByte b = { w with byteOver := w.byteOver + 1 } := by
  simp [Work.keepByte, Nat.not_lt.mpr h]

/-- Settles O23: the `COLLECT` step on an empty `BIN`, on the `END`, and on a byte, which is kept or counted. -/
theorem collectFromBin : Obligations.CollectFromBin := by
  intro s hfsm hlop
  have hport := inPort_of_bytes hlop
  rw [State.coreStep_of_collect hfsm]
  refine ⟨State.collect_of_no_byte hport, fun x rest hbin hend => State.collect_of_endByte hport hbin hend,
    fun x rest hbin hend hroom => ?_, fun x rest hbin hend hfull => ?_⟩
  · rw [State.collect_of_byte hport hbin hend, Work.keepByte_of_room hroom]
  · rw [State.collect_of_byte hport hbin hend, Work.keepByte_of_full hfull]

/-- Settles O25: with `PFX` on, the first token of a `DECODE` is only kept; any other is kept and fed. -/
theorem collectKeepsTheFirstToken : Obligations.CollectKeepsTheFirstToken := by
  intro s hfsm hlop
  have hport := inPort_of_decode_or_unpack hlop
  refine ⟨fun htin => ?_, fun t rest htin hend hfirst => ?_⟩
  · rw [State.coreStep_of_collect hfsm, State.collect_of_no_token hport htin]
  · rw [State.coreStep_of_token hfsm hport htin hend]
    refine ⟨fun hdecode hpfx => ?_, fun hfed => ?_⟩
    · rw [hdecode, Work.takeToken_of_prefix hfirst hpfx]
    · have hno : ¬(s.lop = .decode ∧ pfx s.lcfg = true) := by
        rintro ⟨hdecode, hpfx⟩
        rcases hfed with hunpack | hoff
        · cases hdecode.symm.trans hunpack
        · cases hpfx.symm.trans hoff
      rw [Work.takeToken_of_first hfirst hno]

/-! ### `COMPUTE` -/

theorem State.coreStep_of_compute (h : s.fsm = .compute) : s.coreStep = s.compute := by
  simp [State.coreStep, h]

/-- With the checksum there or not needed, `COMPUTE` decides `OUTV` (R129). -/
theorem State.compute_of_decided (hd : s.dpend = false)
    (h : s.work.toCheck s.lop s.lcfg = none ∨ s.work.chkDone = true) : s.compute = s.finish := by
  rcases s.compute_cases with ⟨hwait, -⟩ | ⟨-, e, -⟩ | ⟨q, -, hq, hk, -⟩
  · cases hd.symm.trans hwait
  · exact e
  · rcases h with hnone | hdone
    · cases hq.symm.trans hnone
    · cases hk.symm.trans hdone

/-- A checksum that is needed and not there is requested (strong variant) or computed (fast variant) (R87, R129). -/
theorem State.compute_of_undecided (hd : s.dpend = false) {q : List Byte} (hq : s.work.toCheck s.lop s.lcfg = some q)
    (hk : s.work.chkDone = false) :
    s.compute =
      if csel s.lcfg then s.askDigest q else { s with work := s.work.setChk (checksum false q) } := by
  simp [State.compute, hd, hq, hk]

/-- `ENCODE` and `CHECKSUM` need the checksum of the payload unless it overflowed (R89, R105, R129). -/
theorem Work.toCheck_of_payload (w : Work) (lcfg : Word32) {c : Cmd} (hc : c = .encode ∨ c = .checksum) :
    w.toCheck c lcfg = if w.byteOver = 0 then some w.inb else none := by
  have hover : (if w.bytesOver then none else some w.inb) = if w.byteOver = 0 then some w.inb else none := by
    by_cases h : w.byteOver = 0 <;> simp [Work.bytesOver, h]
  rcases hc with rfl | rfl
  · exact hover
  · exact hover

/-- Decode needs a checksum exactly where step 10 is reached (R106, R129). -/
theorem Parse.toVerify_eq_some {p : Parse} {q : List Byte} :
    p.toVerify = some q ↔ ∃ chk n, p = .packet q chk n := by
  cases p <;> simp [Parse.toVerify]

/-- Of the core's steps only the request of a needed digest raises `DPEND` (R35, R129). -/
theorem State.coreStep_raises_dpend (hd : s.dpend = false) (h : s.coreStep.dpend = true) :
    s.fsm = .compute ∧ csel s.lcfg = true ∧ s.work.chkDone = false ∧
      s.work.toCheck s.lop s.lcfg = some s.coreStep.dreq ∧ s.coreStep.fsm = .compute := by
  rcases s.coreStep_cases with ⟨-, e⟩ | ⟨-, e⟩ | ⟨hfsm, e⟩ | ⟨-, e⟩ <;> rw [e] at h ⊢
  · cases hd.symm.trans h
  · rw [State.collect_frame] at h
    cases hd.symm.trans h
  · rcases s.compute_cases with ⟨-, e⟩ | ⟨-, e, -⟩ | ⟨q, -, hq, hk, ⟨hstrong, e⟩ | ⟨-, e⟩⟩ <;> rw [e] at h ⊢
    · cases hd.symm.trans h
    · cases hd.symm.trans h
    · exact ⟨hfsm, hstrong, hk, hq, hfsm⟩
    · cases hd.symm.trans h
  · rcases s.commit_cases with ⟨-, e⟩ | ⟨-, e⟩ <;> rw [e] at h <;> cases hd.symm.trans h

/-- The host raises no digest request. -/
theorem hostStep_dpend (h : hostStep s = .next t) : t.dpend = s.dpend := by
  rcases hostStep_frame h with hf | ⟨-, c, rfl⟩
  · exact hf.dpend
  · rw [State.start_frame, State.retire_dpend]

/-- The provider's answer raises no digest request. -/
theorem State.digestAnswer_dpend (s : State) : s.digestAnswer.dpend = false := by
  rcases s.digestAnswer_cases with ⟨-, e⟩ | ⟨hd, e⟩ <;> rw [e]
  exact hd

/-- A step that raises `DPEND` is the core's request of a digest that the command needs (R35, R129). -/
theorem step_raises_dpend (hstep : step s = .next t) (hd : s.dpend = false) (h : t.dpend = true) :
    s.turn = .core ∧ s.fsm = .compute ∧ csel s.lcfg = true ∧ s.work.chkDone = false ∧
      s.work.toCheck s.lop s.lcfg = some t.dreq ∧ t.fsm = .compute := by
  rcases step_next hstep with ⟨-, hs⟩ | ⟨hturn, rfl⟩ | ⟨-, rfl⟩ | ⟨-, rfl⟩ | ⟨-, rfl⟩ | ⟨-, rfl⟩
  · cases h.symm.trans ((hostStep_dpend hs).trans hd)
  · exact ⟨hturn, State.coreStep_raises_dpend (s := s.nextTurn) hd h⟩
  · cases h.symm.trans s.nextTurn.digestAnswer_dpend
  · cases h.symm.trans hd
  · cases h
  · cases h.symm.trans hd

/-- Settles O21: the cases of a `COMPUTE` step, what each command needs, and which step can raise `DPEND`. -/
theorem computeDecidesOrAsksForTheDigest : Obligations.ComputeDecidesOrAsksForTheDigest := by
  refine ⟨fun s hfsm => ?_, fun w lcfg => ?_, fun s t => step_raises_dpend⟩
  · rw [State.coreStep_of_compute hfsm]
    refine ⟨fun hd => ?_, State.compute_of_decided, fun q hd hq hk => ?_⟩
    · rw [← State.coreStep_of_compute hfsm, State.coreStep_of_waiting hfsm hd]
    · rw [State.compute_of_undecided hd hq hk]
      exact ⟨fun hstrong => if_pos hstrong, fun hfast => if_neg (ne_true_of_eq_false hfast)⟩
  · exact ⟨fun c hc => w.toCheck_of_payload lcfg hc, rfl, rfl, fun q => Parse.toVerify_eq_some⟩

/-! ### `COMMIT` -/

/-- Room in each output FIFO is room for the items. -/
theorem State.hasRoom_of_length {items : OutItems} (hs : s.sout.length + items.toSout.length ≤ Config.capSout)
    (hb : s.bout.length + items.toBout.length ≤ Config.capBout) : s.hasRoom items = true := by
  cases items with
  | none => rfl
  | syms l => exact decide_eq_true hs
  | bytes l => exact decide_eq_true hb

/-- A commit without room waits (R130). -/
theorem State.commit_of_full (h : s.hasRoom s.work.outv.items = false) : s.commit = s := by
  rcases s.commit_cases with ⟨hroom, -⟩ | ⟨-, e⟩
  · cases h.symm.trans hroom
  · exact e

/-- Settles O26: with room the commit writes everything at once, without it nothing. -/
theorem commitIsAtomicOrWaits : Obligations.CommitIsAtomicOrWaits := by
  refine ⟨⟨rfl, rfl, rfl, rfl, rfl, rfl, rfl, rfl, rfl⟩, fun s hfsm => ?_⟩
  rw [State.coreStep_of_commit hfsm]
  refine ⟨fun hsout hbout => ?_, fun l hl hfull => ?_, fun l hl hfull => ?_⟩
  · rcases s.commit_cases with ⟨-, e⟩ | ⟨hno, -⟩
    · exact ⟨_, e⟩
    · cases hno.symm.trans (State.hasRoom_of_length hsout hbout)
  · refine State.commit_of_full ?_
    rw [hl]
    exact decide_eq_false (Nat.not_le_of_lt hfull)
  · refine State.commit_of_full ?_
    rw [hl]
    exact decide_eq_false (Nat.not_le_of_lt hfull)

end Sys2Proof.Machine
end

section
/-! Proofs of the statements from 45_host_interface.md: no interleaving changes what a command commits. -/

namespace Sys2Proof.Machine

variable {s t : State} {o : OutV}

/-! ### What the host's moves keep -/

/-- Items pushed behind an `END` are not part of the input (R67). -/
theorem bytesToEnd_append {items : List BinItem} {p : List Byte} (h : bytesToEnd items = some p) (x : BinItem) :
    bytesToEnd (items ++ [x]) = some p := by
  induction items generalizing p with
  | nil => cases h
  | cons y rest ih =>
    rw [List.cons_append, bytesToEnd]
    rw [bytesToEnd] at h
    split_ifs at h ⊢
    · exact h
    · obtain ⟨p', hp', rfl⟩ := Option.map_eq_some_iff.mp h
      rw [ih hp']
      rfl

/-- Tokens pushed behind an `END` are not part of the input (R69). -/
theorem tokensToEnd_append {items toks : List Token} (h : tokensToEnd items = some toks) (t : Token) :
    tokensToEnd (items ++ [t]) = some toks := by
  induction items generalizing toks with
  | nil => cases h
  | cons u rest ih =>
    rw [List.cons_append, tokensToEnd]
    rw [tokensToEnd] at h
    split_ifs at h ⊢
    · exact h
    · obtain ⟨toks', htoks', rfl⟩ := Option.map_eq_some_iff.mp h
      rw [ih htoks']
      rfl

theorem State.expected_nextTurn (s : State) : s.nextTurn.expected = s.expected := rfl

/-- In `IDLE` nothing is to be committed; a command that will commit `o` is running. -/
theorem State.not_idle_of_expected (h : s.expected = some o) : s.fsm ≠ .idle := by
  intro hidle
  simp [State.expected, hidle] at h

/-- What a busy host leaves alone decides what the command will commit; a push lands behind the `END` (R56, R158). -/
theorem HostFrame.expected (hf : HostFrame s t) (h : s.expected = some o) : t.expected = some o := by
  rw [State.expected] at h
  rw [State.expected, hf.fsm, hf.lop, hf.lcfg, hf.larg, hf.work]
  split at h
  · cases h
  · split at h
    · obtain ⟨p, hp, rfl⟩ := Option.map_eq_some_iff.mp h
      have hp' : bytesToEnd t.bin = some p := by
        rcases hf.bin with e | ⟨x, e⟩ <;> rw [e]
        · exact hp
        · exact bytesToEnd_append hp x
      rw [hp']
      rfl
    · obtain ⟨toks, htoks, rfl⟩ := Option.map_eq_some_iff.mp h
      have htoks' : tokensToEnd t.tin = some toks := by
        rcases hf.tin with e | ⟨x, e⟩ <;> rw [e]
        · exact htoks
        · exact tokensToEnd_append htoks x
      rw [htoks']
      rfl
    · cases h
  · exact h
  · exact h

theorem hostStep_expected (hs : hostStep s = .next t) (h : s.expected = some o) : t.expected = some o := by
  rcases hostStep_frame hs with hf | ⟨hidle, -⟩
  · exact hf.expected h
  · exact absurd hidle (State.not_idle_of_expected h)

/-! ### What the checksum's arrival keeps -/

/-- The pure function does not read `CHK`: its checksum is that of R85. -/
@[simp] theorem Work.pureOutcome_setChk (w : Work) (k : Chk) (c : Cmd) (lcfg larg : Word32) :
    (w.setChk k).pureOutcome c lcfg larg = w.pureOutcome c lcfg larg := by
  cases c <;> rfl

theorem State.expected_of_compute (hfsm : s.fsm = .compute) :
    s.expected = some (s.work.pureOutcome s.lop s.lcfg s.larg) := by
  simp [State.expected, hfsm]

/-- A checksum that arrives in `COMPUTE` does not change what is to be committed. -/
theorem State.expected_takeChecksum (hfsm : s.fsm = .compute) (d : Bool) (dreq : List Byte) (k : Chk) :
    { s with dpend := d, dreq := dreq, work := s.work.setChk k }.expected = s.expected := by
  rw [State.expected_of_compute hfsm, ← s.work.pureOutcome_setChk k]
  exact State.expected_of_compute hfsm

/-- By the invariant an answer arrives in `COMPUTE` only, where it gives the core `CHK` (R35, R141). -/
theorem State.Inv.digestAnswer_expected (hinv : s.Inv) : s.digestAnswer.expected = s.expected := by
  rcases s.digestAnswer_cases with ⟨hd, e⟩ | ⟨-, e⟩ <;> rw [e]
  exact State.expected_takeChecksum (hinv.dpend_waits hd).1 _ _ _

/-! ### The core's steps -/

theorem State.expected_of_collect_bin (hfsm : s.fsm = .collect) (hport : s.lop.inPort = .bin) :
    s.expected = (bytesToEnd s.bin).map fun p => (s.work.collectBytes p).pureOutcome s.lop s.lcfg s.larg := by
  simp [State.expected, hfsm, hport]

theorem State.expected_of_collect_tin (hfsm : s.fsm = .collect) (hport : s.lop.inPort = .tin) :
    s.expected =
      (tokensToEnd s.tin).map fun toks =>
        (s.work.collectTokens s.lop s.lcfg toks).pureOutcome s.lop s.lcfg s.larg := by
  simp [State.expected, hfsm, hport]

/-- A collected item moves from the FIFO into the working registers; the `END` closes the input (R128). -/
theorem State.collect_expected (hfsm : s.fsm = .collect) : s.collect.expected = s.expected := by
  rcases s.collect_cases with
    e | ⟨hport, x, rest, hbin, ⟨hx, e⟩ | ⟨hx, e⟩⟩ | ⟨hport, t, rest, htin, ⟨ht, e⟩ | ⟨ht, e⟩⟩ <;> rw [e]
  · rw [State.expected_of_collect_bin hfsm hport, hbin, bytesToEnd, if_pos hx]
    rfl
  · rw [State.expected_of_collect_bin hfsm hport, hbin, bytesToEnd, if_neg (ne_true_of_eq_false hx), Option.map_map]
    simpa only [Function.comp_def, Work.collectBytes_cons] using State.expected_of_collect_bin
      (s := { s with bin := rest, work := s.work.keepByte x.byte }) hfsm hport
  · rw [State.expected_of_collect_tin hfsm hport, htin, tokensToEnd, if_pos ht]
    rfl
  · rw [State.expected_of_collect_tin hfsm hport, htin, tokensToEnd, if_neg (ne_true_of_eq_false ht), Option.map_map]
    simpa only [Function.comp_def, Work.collectTokens_cons] using State.expected_of_collect_tin
      (s := { s with tin := rest, work := s.work.takeToken s.lop s.lcfg t }) hfsm hport

/-- In `COMPUTE` `OUTV` is decided as the pure function says: `CHK` is not read, or by the invariant it is the checksum
that the command needs (R85, R129). -/
theorem State.Inv.outcome_of_decided (hinv : s.Inv) (hfsm : s.fsm = .compute)
    (h : s.work.toCheck s.lop s.lcfg = none ∨ s.work.chkDone = true) :
    s.work.outcome s.lop s.lcfg s.larg s.work.chk = s.work.pureOutcome s.lop s.lcfg s.larg := by
  rcases h with hnone | hdone
  · exact Work.outcome_of_no_check hnone s.larg s.work.chk
  · obtain ⟨q, hq, hchk⟩ := hinv.chk_compute hfsm hdone
    rw [Work.pureOutcome, hq, hchk]

theorem State.Inv.compute_expected (hinv : s.Inv) (hfsm : s.fsm = .compute) : s.compute.expected = s.expected := by
  rcases s.compute_cases with ⟨-, e⟩ | ⟨-, e, hdecided⟩ | ⟨q, -, -, -, ⟨-, e⟩ | ⟨-, e⟩⟩ <;> rw [e]
  · rw [State.expected_of_compute hfsm, ← hinv.outcome_of_decided hfsm hdecided]
    rfl
  · rw [State.expected_of_compute hfsm]
    exact State.expected_of_compute hfsm
  · exact State.expected_takeChecksum hfsm _ _ _

/-- The commit writes what `OUTV` holds, or waits (R130). -/
theorem State.commit_expected (hfsm : s.fsm = .commit) (h : s.expected = some o) :
    s.commit.expected = some o ∨ CommittedTo s s.commit o := by
  obtain rfl : s.work.outv = o := by simpa [State.expected, hfsm] using h
  rcases s.commit_cases with ⟨-, e⟩ | ⟨-, e⟩ <;> rw [e]
  · exact .inr ⟨rfl, rfl, rfl, rfl, rfl, rfl, rfl⟩
  · exact .inl h

/-- The core's step keeps what the running command will commit, or commits exactly that (R128 to R131). -/
theorem State.Inv.coreStep_expected (hinv : s.Inv) (h : s.expected = some o) :
    s.coreStep.expected = some o ∨ (s.fsm = .commit ∧ CommittedTo s s.coreStep o) := by
  rcases s.coreStep_cases with ⟨-, e⟩ | ⟨hfsm, e⟩ | ⟨hfsm, e⟩ | ⟨hfsm, e⟩ <;> rw [e]
  · exact .inl h
  · exact .inl ((State.collect_expected hfsm).trans h)
  · exact .inl ((hinv.compute_expected hfsm).trans h)
  · exact (State.commit_expected hfsm h).imp_right fun hc => ⟨hfsm, hc⟩

/-- Settles O56: the host's and the provider's moves keep what is to be committed, and so do the core's until the commit
of it. -/
theorem scheduleDoesNotChangeTheResult : Obligations.ScheduleDoesNotChangeTheResult := by
  intro s t o hinv h hreset hstep
  have hnext : s.nextTurn.expected = some o := s.expected_nextTurn.trans h
  rcases step_next hstep with ⟨-, hs⟩ | ⟨hturn, rfl⟩ | ⟨-, rfl⟩ | ⟨-, rfl⟩ | ⟨hturn, -⟩ | ⟨-, rfl⟩
  · exact .inl (hostStep_expected hs hnext)
  · exact (hinv.nextTurn.coreStep_expected hnext).imp_right fun hc => ⟨hturn, hc⟩
  · exact .inl (hinv.nextTurn.digestAnswer_expected.trans hnext)
  · exact .inl h
  · exact absurd hturn hreset
  · exact .inl h

end Sys2Proof.Machine
end

section
/-! Proofs of the statements from 60_exceptions.md: what `ENCODE` reports, and the provider's answer. -/

namespace Sys2Proof.Machine

/-! ### The `ENCODE` command -/

theorem encodeCmd_of_gt {p : List Byte} (h : Config.maxPayload < p.length) (lcfg : Word32) :
    encodeCmd lcfg p = OutV.fail .capacity false := by
  simp [encodeCmd, encodeOut, h]

theorem encodeCmd_of_le {p : List Byte} (h : p.length ≤ Config.maxPayload) (lcfg : Word32) :
    encodeCmd lcfg p =
      let out := packetEncode (csel lcfg) (pfx lcfg) p
      OutV.success (checksum (csel lcfg) p).toNat 0 out.length (.syms out) := by
  simp [encodeCmd, encodeOut, packetEncode, Nat.not_lt.mpr h]

/-- Settles O43: beyond `P` bytes the capacity check fails; within them the success tuple is R105's by definition, the
17 bits of the checksum fit `RESULT`, and that the output is sound gives the item count. -/
theorem encodeCommandResult : Obligations.EncodeCommandResult := by
  refine fun lcfg p => ⟨fun h => encodeCmd_of_gt h lcfg, fun h => ?_⟩
  rw [encodeCmd_of_le h]
  refine ⟨rfl, rfl, ?result, rfl, ?outlen, rfl⟩
  case result =>
    have hlt : (checksum (csel lcfg) p).toNat < 2 ^ 17 := (checksum (csel lcfg) p).isLt
    exact (BitVec.toNat_ofNat _ 32).trans (Nat.mod_eq_of_lt (by omega))
  case outlen =>
    exact (OutV.success_syms_sound (packetWith_length_le _ _ _ h)).outlen_counts

/-! ### The provider's answer -/

/-- The strong checksum is the truncated digest (R84, R85). -/
theorem checksum_strong (q : List Byte) : checksum true q = trunc17 (Config.digest q) := if_pos rfl

/-- Settles O28: with a request outstanding the provider's step is the answer, and what `CHK` takes is the truncated
digest of the requested bytes. -/
theorem digestAnswerGivesTheChecksum : Obligations.DigestAnswerGivesTheChecksum := by
  intro s hrequest
  rcases s.digestAnswer_cases with ⟨-, e⟩ | ⟨hnone, -⟩
  · rw [e, checksum_strong, Work.setChk]
  · exact absurd (hrequest.symm.trans hnone) (by decide)

end Sys2Proof.Machine
end

section
/-! Proofs of the statements from 70_reset_and_hazards.md: a reset aborts, a late answer is discarded, and under weak
fairness of the core a busy command ends unless it waits for the provider or for room. -/

namespace Sys2Proof.Machine

variable {s t : State} {q : State → Prop}

/-! ### Reset -/

theorem step_of_reset (h : s.turn = .reset) : step s = .next s.nextTurn.platformReset := by
  simp only [step, h]

theorem step_of_lateDigest (h : s.turn = .lateDigest) : step s = .next s.nextTurn.lateAnswer := by
  simp only [step, h]

/-- Settles O30: the reset's step writes R41's values, and the late answer's takes only the request off the late list. -/
theorem resetAbortsAndLateAnswersAreDiscarded : Obligations.ResetAbortsAndLateAnswersAreDiscarded := by
  refine fun s t hstep => ⟨fun hreset => ?_, fun hlate => ?_⟩
  · obtain rfl := Host.Outcome.next.inj ((step_of_reset hreset).symm.trans hstep)
    obtain ⟨hcfg, harg, hstatus, hresult, hconsumed, houtlen, hbin, htin, hsout, hbout, hfsm, hdpend⟩ := resetValues
    exact ⟨hcfg, harg, hstatus, hresult, hconsumed, houtlen, hbin, htin, hsout, hbout, hfsm, hdpend, rfl, rfl, rfl⟩
  · exact (Host.Outcome.next.inj ((step_of_lateDigest hlate).symm.trans hstep)).symm

/-! ### What a busy command keeps while another agent moves -/

/-- What every step of an agent other than the core keeps of a busy command, unless it is a reset: its input grows only at
the end, the room for its output does not shrink, and without an outstanding request no checksum arrives (R56, R158). -/
structure KeepsCommand (s t : State) : Prop where
  fsm : t.fsm = s.fsm
  lop : t.lop = s.lop
  lcfg : t.lcfg = s.lcfg
  outv : t.work.outv = s.work.outv
  bin : t.bin = s.bin ∨ ∃ x, t.bin = s.bin ++ [x]
  tin : t.tin = s.tin ∨ ∃ x, t.tin = s.tin ++ [x]
  sout : t.sout.length ≤ s.sout.length
  bout : t.bout.length ≤ s.bout.length
  unrequested : s.dpend = false → t.dpend = false ∧ t.work = s.work

theorem HostFrame.keepsCommand (h : HostFrame s t) : KeepsCommand s t where
  fsm := h.fsm
  lop := h.lop
  lcfg := h.lcfg
  outv := congrArg Work.outv h.work
  bin := h.bin
  tin := h.tin
  sout := by rcases h.sout with e | ⟨x, e⟩ <;> simp [e]
  bout := by rcases h.bout with e | ⟨x, e⟩ <;> simp [e]
  unrequested hd := ⟨h.dpend.trans hd, h.work⟩

theorem KeepsCommand.refl (s : State) : KeepsCommand s s := (HostFrame.refl s).keepsCommand

theorem State.nextTurn_keepsCommand (s : State) : KeepsCommand s s.nextTurn := { KeepsCommand.refl s with }

theorem State.lateAnswer_keepsCommand (s : State) : KeepsCommand s s.lateAnswer := { KeepsCommand.refl s with }

theorem State.digestAnswer_keepsCommand (s : State) : KeepsCommand s s.digestAnswer := by
  rcases s.digestAnswer_cases with ⟨hd, e⟩ | ⟨-, e⟩ <;> rw [e]
  · exact { KeepsCommand.refl s with
      outv := rfl
      unrequested := fun hno => absurd (hd.symm.trans hno) (by decide) }
  · exact .refl s

/-- An agent other than the core keeps a busy command, or resets the block. -/
theorem step_keepsCommand (hbusy : s.fsm ≠ .idle) (hturn : s.turn ≠ .core) (hstep : step s = .next t) :
    KeepsCommand s.nextTurn t ∨ t.fsm = .idle := by
  rcases step_next hstep with ⟨-, hs⟩ | ⟨hcore, -⟩ | ⟨-, rfl⟩ | ⟨-, rfl⟩ | ⟨-, rfl⟩ | ⟨-, rfl⟩
  · rcases hostStep_frame hs with hf | ⟨hidle, -⟩
    · exact .inl hf.keepsCommand
    · exact absurd hidle hbusy
  · exact absurd hcore hturn
  · exact .inl s.nextTurn.digestAnswer_keepsCommand
  · exact .inl s.nextTurn.lateAnswer_keepsCommand
  · exact .inr rfl
  · exact .inl (.refl _)

/-- Weak fairness for a busy command: in a phase `f` of the sequencer, what the other agents keep (`J`) and a step of the
core turns into `q` leads to `q`; so does a reset, where `IDLE` is among the goals. -/
theorem leadsTo_of_phase {f : Fsm} {J : State → Prop} (hf : f ≠ .idle) (hs : s.HostSpells) (hfsm : s.fsm = f)
    (hJ : J s) (hkeep : ∀ u v, KeepsCommand u v → J u → J v) (hreset : ∀ v : State, v.fsm = .idle → q v)
    (hcore : ∀ u, u.fsm = f → J u → u.coreStep.HostSpells → u.coreStep.LeadsTo q) : s.LeadsTo q := by
  refine leadsTo_of_core_step (J := fun u => u.fsm = f ∧ J u) hs ⟨hfsm, hJ⟩ ?other ?own
  case other =>
    rintro u v ⟨hu, hJu⟩ - - hother hstep
    rcases step_keepsCommand (fun hidle => hf (hu.symm.trans hidle)) hother hstep with hk | hidle
    · exact .inl ⟨hk.fsm.trans hu, hkeep _ v hk (hkeep u _ u.nextTurn_keepsCommand hJu)⟩
    · exact .inr (.here (hreset v hidle))
  case own =>
    rintro u v ⟨hu, hJu⟩ - hv hown hstep
    obtain rfl := Host.Outcome.next.inj ((step_of_core hown).symm.trans hstep)
    exact hcore u.nextTurn hu (hkeep u _ u.nextTurn_keepsCommand hJu) hv

/-- The core's turn comes again (R160). -/
theorem leadsTo_core_turn (hs : s.HostSpells) : s.LeadsTo fun t => t.turn = .core := by
  by_cases hnow : s.turn = .core
  · exact .here hnow
  · refine leadsTo_of_core_step (J := fun u => u.turn ≠ .core) hs hnow (fun _ v _ _ _ _ _ => ?_)
      (fun u v hu _ _ hown _ => absurd hown hu)
    exact (em (v.turn = .core)).symm.imp_right .here

/-! ### From `COLLECT` to `COMPUTE` -/

/-- How many items the command has still to collect before the `END`, once that is in its FIFO. -/
def State.inputLeft (s : State) : Option Nat :=
  match s.lop.inPort with
  | .bin => (bytesToEnd s.bin).map List.length
  | .tin => (tokensToEnd s.tin).map List.length
  | .none => none

theorem State.inputLeft_of_bin (hport : s.lop.inPort = .bin) : s.inputLeft = (bytesToEnd s.bin).map List.length := by
  simp only [State.inputLeft, hport]

theorem State.inputLeft_of_tin (hport : s.lop.inPort = .tin) : s.inputLeft = (tokensToEnd s.tin).map List.length := by
  simp only [State.inputLeft, hport]

/-- In `COLLECT` it is known what will be committed exactly when the input is complete. -/
theorem State.isSome_expected_of_collect (hfsm : s.fsm = .collect) : s.expected.isSome = s.inputLeft.isSome := by
  cases hport : s.lop.inPort with
  | bin => simp only [State.expected_of_collect_bin hfsm hport, State.inputLeft_of_bin hport, Option.isSome_map]
  | tin => simp only [State.expected_of_collect_tin hfsm hport, State.inputLeft_of_tin hport, Option.isSome_map]
  | none => simp only [State.expected, State.inputLeft, hfsm, hport, Option.isSome_none]

/-- What is pushed behind the `END` is not part of the input (R67, R69). -/
theorem KeepsCommand.inputLeft (h : KeepsCommand s t) {n : Nat} (hn : s.inputLeft = some n) : t.inputLeft = some n := by
  cases hport : s.lop.inPort with
  | bin =>
    rw [State.inputLeft_of_bin hport] at hn
    rw [State.inputLeft_of_bin (h.lop ▸ hport)]
    obtain ⟨p, hp, rfl⟩ := Option.map_eq_some_iff.mp hn
    rcases h.bin with e | ⟨x, e⟩ <;> rw [e]
    · exact hn
    · rw [bytesToEnd_append hp x]
      rfl
  | tin =>
    rw [State.inputLeft_of_tin hport] at hn
    rw [State.inputLeft_of_tin (h.lop ▸ hport)]
    obtain ⟨toks, htoks, rfl⟩ := Option.map_eq_some_iff.mp hn
    rcases h.tin with e | ⟨x, e⟩ <;> rw [e]
    · exact hn
    · rw [tokensToEnd_append htoks x]
      rfl
  | none => simp [State.inputLeft, hport] at hn

/-- The core's step in `COLLECT` takes the `END` if it is next, and otherwise one of the items before it (R128). -/
theorem State.coreStep_inputLeft (hfsm : s.fsm = .collect) {n : Nat} (hn : s.inputLeft = some n) :
    s.coreStep.fsm = .compute ∨ ∃ m, n = m + 1 ∧ s.coreStep.fsm = .collect ∧ s.coreStep.inputLeft = some m := by
  cases hport : s.lop.inPort with
  | bin =>
    rw [inputLeft_of_bin hport] at hn
    cases hbin : s.bin with
    | nil => simp [hbin, bytesToEnd] at hn
    | cons x rest =>
      rw [coreStep_of_collect hfsm]
      cases hend : x.isEnd with
      | true => exact .inl (by rw [collect_of_endByte hport hbin hend])
      | false =>
        obtain ⟨p, hp, rfl⟩ : ∃ p, bytesToEnd rest = some p ∧ p.length + 1 = n := by
          simpa [hbin, bytesToEnd, hend] using hn
        rw [collect_of_byte hport hbin hend]
        exact .inr ⟨p.length, rfl, hfsm, by simp [inputLeft, hport, hp]⟩
  | tin =>
    rw [inputLeft_of_tin hport] at hn
    cases htin : s.tin with
    | nil => simp [htin, tokensToEnd] at hn
    | cons x rest =>
      cases hend : x.isEnd with
      | true => exact .inl (by rw [coreStep_of_endToken hfsm hport htin hend])
      | false =>
        obtain ⟨toks, htoks, rfl⟩ : ∃ toks, tokensToEnd rest = some toks ∧ toks.length + 1 = n := by
          simpa [htin, tokensToEnd, hend] using hn
        rw [coreStep_of_token hfsm hport htin hend]
        exact .inr ⟨toks.length, rfl, hfsm, by simp [inputLeft, hport, htoks]⟩
  | none => simp [inputLeft, hport] at hn

/-- A command with its whole input in its FIFO comes to `COMPUTE`: each turn of the core leaves one item fewer. -/
theorem leadsTo_compute {n : Nat} (hs : s.HostSpells) (hfsm : s.fsm = .collect) (hn : s.inputLeft = some n) :
    s.LeadsTo fun t => t.fsm = .compute ∨ t.fsm = .idle := by
  induction n using Nat.strong_induction_on generalizing s with
  | _ n ih =>
    refine leadsTo_of_phase (J := fun u => u.inputLeft = some n) (by decide) hs hfsm hn
      (fun u v hk => hk.inputLeft) (fun _ => .inr) fun u hu hleft hv => ?_
    rcases State.coreStep_inputLeft hu hleft with hcompute | ⟨m, rfl, hcollect, hm⟩
    · exact .here (.inl hcompute)
    · exact ih m (Nat.lt_succ_self m) hv hcollect hm

/-! ### From `COMPUTE` to `COMMIT` or to waiting for the provider -/

/-- With the checksum there, the core's next turn decides `OUTV` (R129). -/
theorem leadsTo_commit_of_checked (hs : s.HostSpells) (hfsm : s.fsm = .compute) (hd : s.dpend = false)
    (hdone : s.work.chkDone = true) : s.LeadsTo fun t => t.fsm = .commit ∨ t.fsm = .idle := by
  refine leadsTo_of_phase (J := fun u => u.dpend = false ∧ u.work.chkDone = true) (by decide) hs hfsm ⟨hd, hdone⟩
    ?keep (fun _ => .inr) ?core
  case keep =>
    rintro u v hk ⟨hd, hdone⟩
    obtain ⟨hd', hwork⟩ := hk.unrequested hd
    exact ⟨hd', by rw [hwork, hdone]⟩
  case core =>
    rintro u hu ⟨hd, hdone⟩ -
    rw [State.coreStep_of_compute hu, State.compute_of_decided hd (.inr hdone)]
    exact .here (.inl rfl)

/-- A command in `COMPUTE` comes to `COMMIT`, the fast checksum taking a turn of its own, or it asks for a strong checksum
that is not there (R87, R129). -/
theorem leadsTo_commit_or_request (hs : s.HostSpells) (hfsm : s.fsm = .compute) (hd : s.dpend = false) :
    s.LeadsTo fun t =>
      t.fsm = .commit ∨ t.fsm = .idle ∨
        (t.fsm = .compute ∧ t.dpend = true ∧ csel s.lcfg = true ∧ s.work.chkDone = false) := by
  refine leadsTo_of_phase
    (J := fun u => u.dpend = false ∧ u.lcfg = s.lcfg ∧ u.work.chkDone = s.work.chkDone) (by decide) hs hfsm
    ⟨hd, rfl, rfl⟩ ?keep (fun _ h => .inr (.inl h)) ?core
  case keep =>
    rintro u v hk ⟨hd, hlcfg, hdone⟩
    obtain ⟨hd', hwork⟩ := hk.unrequested hd
    exact ⟨hd', hk.lcfg.trans hlcfg, by rw [hwork, hdone]⟩
  case core =>
    rintro u hu ⟨hd, hlcfg, hdone⟩ hv
    rw [State.coreStep_of_compute hu] at hv ⊢
    rcases u.compute_cases with ⟨hwait, -⟩ | ⟨-, e, -⟩ | ⟨q, -, -, hno, ⟨hstrong, e⟩ | ⟨-, e⟩⟩
    · cases hd.symm.trans hwait
    · exact .here (.inl (by rw [e, State.finish_fsm]))
    · rw [e]
      exact .here (.inr (.inr ⟨hu, rfl, hlcfg ▸ hstrong, hdone.symm.trans hno⟩))
    · rw [e] at hv ⊢
      exact (leadsTo_commit_of_checked hv hu hd rfl).mono fun t ht => ht.imp_right .inl

/-! ### From `COMMIT` to `IDLE` -/

/-- The host takes items out of the output FIFOs only: there is room for what there was room for. -/
theorem KeepsCommand.hasRoom (h : KeepsCommand s t) {items : OutItems} (hroom : s.hasRoom items = true) :
    t.hasRoom items = true := by
  cases items with
  | none => rfl
  | syms l => exact decide_eq_true ((Nat.add_le_add_right h.sout _).trans (of_decide_eq_true hroom))
  | bytes l => exact decide_eq_true ((Nat.add_le_add_right h.bout _).trans (of_decide_eq_true hroom))

/-- A command in `COMMIT` whose items fit comes to `IDLE` (R130). -/
theorem leadsTo_idle (hs : s.HostSpells) (hfsm : s.fsm = .commit) (hroom : s.hasRoom s.work.outv.items = true) :
    s.LeadsTo fun t => t.fsm = .idle := by
  refine leadsTo_of_phase (J := fun u => u.hasRoom u.work.outv.items = true) (by decide) hs hfsm hroom
    (fun u v hk hroom => hk.outv ▸ hk.hasRoom hroom) (fun _ => id) fun u hu hroom _ => ?_
  rw [State.coreStep_of_commit hu]
  exact .here (State.commit_fsm_of_hasRoom hroom)

/-- Settles O60: the core's turn recurs, and each of the three phases of a busy command leads on, except for the waits
named in R160. -/
theorem busyIsFiniteUnlessWaiting : Obligations.BusyIsFiniteUnlessWaiting := by
  refine fun s hs => ⟨leadsTo_core_turn hs, fun hfsm hinput => ?_, leadsTo_commit_or_request hs, leadsTo_idle hs⟩
  rw [State.isSome_expected_of_collect hfsm] at hinput
  obtain ⟨n, hn⟩ := Option.isSome_iff_exists.mp hinput
  exact leadsTo_compute hs hfsm hn

end Sys2Proof.Machine
end
